-- ==== Sys2Proof/Word.lean ====
section
/-! DEFINITION. The unsigned widths of spec/00_scope.md R9, spec/30_encoding.md R70 and R78. -/

namespace Sys2Proof

/-- `u8` (R9): opcodes, request codes, parameter and pixel bytes. -/
abbrev Byte := BitVec 8

/-- `u16` (R9): coordinates (W_COORD) and colours (W_COLOR). -/
abbrev Word := BitVec 16

/-- A request descriptor, 72 bits (R70). -/
abbrev Desc := BitVec 72

/-- A colour-stream token, 17 bits (R78). -/
abbrev Token := BitVec 17

end Sys2Proof
end

