-- ==== Sys2Proof/Config.lean ====
section
/-! DEFINITION. What is fixed when an instance is built (spec/00_scope.md R7, R8; spec/10_state.md R20), and the
free values of the environment. Every parameter the spec marks OPEN is a field of `Config`, which State holds: a
statement about every state is a statement about every configuration. -/

namespace Sys2Proof

/-- The transport variant (R7 VARIANT, 92_eei_decisions.md D6). -/
inductive Variant where
  | unified
  | discrete
  deriving DecidableEq, Repr

/-- The eleven OPEN opcode parameters OPC_* (R7, D5). -/
structure Opcodes where
  swreset : Byte
  slpout  : Byte
  invoff  : Byte
  invon   : Byte
  madctl  : Byte
  colmod  : Byte
  noron   : Byte
  dispon  : Byte
  caset   : Byte
  raset   : Byte
  ramwr   : Byte
  deriving DecidableEq, Repr

/-- The eleven opcodes in the order of the table of R7. -/
def Opcodes.toList (o : Opcodes) : List Byte :=
  [o.swreset, o.slpout, o.invoff, o.invon, o.madctl, o.colmod, o.noron, o.dispon, o.caset, o.raset, o.ramwr]

/-- R8: the eleven opcodes are pairwise distinct. -/
abbrev Opcodes.Distinct (o : Opcodes) : Prop := o.toList.Nodup

/-- The defaults of R7 and R81. PRESUMED (notes/assumptions/1.md): the spec marks them
"[from general knowledge, not in source]". -/
def Opcodes.default : Opcodes where
  swreset := 0x01
  slpout  := 0x11
  invoff  := 0x20
  invon   := 0x21
  madctl  := 0x36
  colmod  := 0x3A
  noron   := 0x13
  dispon  := 0x29
  caset   := 0x2A
  raset   := 0x2B
  ramwr   := 0x2C

/-- The configuration registers CFG_* (R20) and the opcode parameters (R7). -/
structure Config where
  /-- CFG_SIZE_X, CFG_SIZE_Y (R21): read by no step of any request. -/
  sizeX    : Nat
  sizeY    : Nat
  /-- CFG_VARIANT. -/
  variant  : Variant
  /-- CFG_HAS_CS: meaningful under DISCRETE only. -/
  hasCs    : Bool
  /-- CFG_HAS_DELAY. -/
  hasDelay : Bool
  /-- CFG_CHUNK = STREAM_CHUNK: colour words per pixel-data transaction. -/
  chunk    : Nat
  /-- OPC_*: the "Immutable, compile-time constant set" of R64. -/
  opc      : Opcodes
  deriving DecidableEq, Repr

/-- The ranges of R7 and the distinctness of R8; any other instantiation is outside the spec. -/
abbrev Config.Wf (c : Config) : Prop :=
  (1 ≤ c.sizeX ∧ c.sizeX ≤ 65536) ∧ (1 ≤ c.sizeY ∧ c.sizeY ≤ 65536) ∧ 1 ≤ c.chunk ∧ c.opc.Distinct

/-- The instance State.reset is built with. DESIGN CHOICE (notes/assumptions/2.md): the spec leaves every one of
these OPEN. -/
def Config.default : Config where
  sizeX    := 128
  sizeY    := 160
  variant  := .unified
  hasCs    := false
  hasDelay := true
  chunk    := 1
  opc      := Opcodes.default

/-- The answer of the environment to a fallible primitive (R12). -/
inductive Answer where
  | ok
  | fail
  deriving DecidableEq, Repr, Inhabited

/-- The environment's answers where State scripts none: a free value, on which the model "places no law" (R12).
Applied to the plain counter `State.draws`. DESIGN CHOICE (notes/assumptions/6.md). -/
opaque Config.freeAnswer : Nat → Answer

/-- The colours of a stream the host supplies without end (R125, 93_implementation_defined.md I17): a free value, since
the host may supply any. Applied to the plain counter of `StreamEnd.endless`. DESIGN CHOICE (notes/assumptions/13.md). -/
opaque Config.freeColour : Nat → Word

end Sys2Proof
end

