-- ==== Sys2Proof/Syntax.lean ====
section
/-! DEFINITION. The instructions: one constructor per row of spec/opcode_table.json, the five host requests
(spec/30_encoding.md R72) and the eleven controller commands (R81). -/

namespace Sys2Proof

/-- The four orientations, in the numbering of R73. -/
inductive Orientation where
  | portrait
  | landscape
  | portraitSwapped
  | landscapeSwapped
  deriving DecidableEq, Repr

/-- A request carries all four operand fields of its descriptor, the ignored ones too: R75 has them accepted and
latched. A controller command carries its parameters (R81). -/
inductive Instr where
  /-- INIT (R104). -/
  | init (a b c d : Word)
  /-- HARD_RESET (R103). -/
  | hardReset (a b c d : Word)
  /-- SET_ORIENTATION (R120). -/
  | setOrientation (ori : Orientation) (a b c d : Word)
  /-- SET_PIXEL (R128); d is ignored. -/
  | setPixel (x y color d : Word)
  /-- SET_PIXELS (R122); its colours come from the stream port. -/
  | setPixels (sx sy ex ey : Word)
  /-- SWRESET (R145). -/
  | swreset
  /-- SLPOUT (R146). -/
  | slpout
  /-- INVOFF (R147). -/
  | invoff
  /-- MADCTL (R148). -/
  | madctl (b : Byte)
  /-- COLMOD (R149). -/
  | colmod (b : Byte)
  /-- INVON (R150). -/
  | invon
  /-- NORON (R151). -/
  | noron
  /-- DISPON (R152). -/
  | dispon
  /-- CASET (R153). -/
  | caset (sx ex : Word)
  /-- RASET (R154). -/
  | raset (sy ey : Word)
  /-- RAMWR (R155). -/
  | ramwr
  deriving DecidableEq, Repr

/-- Which of the block's two encodings an instruction belongs to (spec/30_encoding.md, opening). -/
inductive Port where
  /-- A host request, encoded as a descriptor (R70). -/
  | request
  /-- A controller command, encoded as a command frame (R79). -/
  | bus
  deriving DecidableEq, Repr

/-- The encoding an instruction belongs to. -/
def Instr.port : Instr → Port
  | .init _ _ _ _ => .request
  | .hardReset _ _ _ _ => .request
  | .setOrientation _ _ _ _ _ => .request
  | .setPixel _ _ _ _ => .request
  | .setPixels _ _ _ _ => .request
  | .swreset => .bus
  | .slpout => .bus
  | .invoff => .bus
  | .madctl _ => .bus
  | .colmod _ => .bus
  | .invon => .bus
  | .noron => .bus
  | .dispon => .bus
  | .caset _ _ => .bus
  | .raset _ _ => .bus
  | .ramwr => .bus

end Sys2Proof
end

