-- ==== Sys2Proof/Machine/Bits.lean ====
section
/-! DEFINITION. Bit fields and byte order: byte splitting (spec/00_scope.md R10), the REQ byte (spec/30_encoding.md
R71), the descriptor (R70), the colour token (R78) and the orientation bytes (R73). -/

namespace Sys2Proof

/-- `hi(v) = v[15:8]` (R10). -/
def hiByte (v : Word) : Byte := v.extractLsb' 8 8

/-- `lo(v) = v[7:0]` (R10). -/
def loByte (v : Word) : Byte := v.extractLsb' 0 8

/-- `be16(v) = [hi(v), lo(v)]` (R10, R53): the most significant byte first. -/
def be16 (v : Word) : List Byte := [hiByte v, loByte v]

/-- The word whose big-endian bytes are h, l. -/
def wordOf (h l : Byte) : Word := h ++ l

/-- `OP = REQ[3:0]` (R71). -/
def reqOp (r : Byte) : BitVec 4 := r.extractLsb' 0 4

/-- `ORI = REQ[5:4]` (R71). -/
def reqOri (r : Byte) : BitVec 2 := r.extractLsb' 4 2

/-- `RSV = REQ[7:6]` (R71). -/
def reqRsv (r : Byte) : BitVec 2 := r.extractLsb' 6 2

/-- The request code with RSV = 0 (R71). -/
def reqByte (ori : BitVec 2) (op : BitVec 4) : Byte := (0#2 ++ ori) ++ op

/-- A request code is legal (R76). -/
def legalReq (r : Byte) : Bool :=
  reqRsv r == 0#2 && (1 ≤ (reqOp r).toNat && (reqOp r).toNat ≤ 5) && (reqOri r == 0#2 || reqOp r == 3#4)

/-- ORI of an orientation (R73). -/
def oriCode : Orientation → BitVec 2
  | .portrait => 0#2
  | .landscape => 1#2
  | .portraitSwapped => 2#2
  | .landscapeSwapped => 3#2

/-- The orientation an ORI field selects (R73). -/
def oriOfCode (o : BitVec 2) : Orientation :=
  if o = 0#2 then .portrait else if o = 1#2 then .landscape
  else if o = 2#2 then .portraitSwapped else .landscapeSwapped

/-- ORI_BYTE (R7, R73). -/
def oriByte : Orientation → Byte
  | .portrait => 0x00
  | .landscape => 0x60
  | .portraitSwapped => 0xC0
  | .landscapeSwapped => 0xA0

/-- REQ = desc[71:64] (R70). -/
def descReq (d : Desc) : Byte := d.extractLsb' 64 8

/-- A = desc[63:48] (R70). -/
def descA (d : Desc) : Word := d.extractLsb' 48 16

/-- B = desc[47:32] (R70). -/
def descB (d : Desc) : Word := d.extractLsb' 32 16

/-- C = desc[31:16] (R70). -/
def descC (d : Desc) : Word := d.extractLsb' 16 16

/-- D = desc[15:0] (R70). -/
def descD (d : Desc) : Word := d.extractLsb' 0 16

/-- The descriptor with the given fields (R70). -/
def descOf (req : Byte) (a b c d : Word) : Desc := req ++ a ++ b ++ c ++ d

/-- The nine bytes of a descriptor, REQ first and every word big-endian. -/
def descBytes (d : Desc) : List Byte :=
  descReq d :: (be16 (descA d) ++ be16 (descB d) ++ be16 (descC d) ++ be16 (descD d))

/-- What a colour-stream token says (R78). -/
inductive StreamItem where
  | word (c : Word)
  | endOfStream
  deriving DecidableEq, Repr

/-- R78: bit 16 is the END flag; an END token's other bits are ignored. -/
def tokenItem (t : Token) : StreamItem :=
  if t.extractLsb' 16 1 = 1#1 then .endOfStream else .word (t.extractLsb' 0 16)

/-- The token WORD(c) (R78). -/
def wordToken (c : Word) : Token := 0#1 ++ c

/-- The token END with all other bits 0 (R78). -/
def endToken : Token := 0x10000#17

end Sys2Proof
end

