-- ==== Sys2Proof/Machine/Params.lean ====
section
/-! DEFINITION. The parameters the document settles (spec/00_scope.md R7): the wait floors, in microseconds, and the
two parameter bytes of INIT. They are taken as normative (93_implementation_defined.md I12). -/

namespace Sys2Proof

/-- T_RST_US: each of the three hard-reset waits. -/
def tRstUs : Nat := 10

/-- T_SWRESET_US. -/
def tSwresetUs : Nat := 150000

/-- T_SLPOUT_US. -/
def tSlpoutUs : Nat := 10000

/-- T_INVON_US. -/
def tInvonUs : Nat := 10000

/-- T_NORON_US. -/
def tNoronUs : Nat := 10000

/-- T_DISPON_US. -/
def tDisponUs : Nat := 10000

/-- MADCTL_INIT (R84). -/
def madctlInit : Byte := 0x00

/-- COLMOD_INIT (R85). -/
def colmodInit : Byte := 0x55

end Sys2Proof
end

