-- ==== Sys2Proof/WellFormed.lean ====
section
/-! DEFINITION. Which instructions the spec admits. Every request is well-formed (R75 accepts any operand); MADCTL
carries one of the four bytes of R148 and COLMOD carries 0x55 (R149). -/

namespace Sys2Proof

/-- The bytes MADCTL is ever sent with (R148): MADCTL_INIT and the four orientation bytes. -/
def madctlBytes : List Byte :=
  [madctlInit, oriByte .portrait, oriByte .landscape, oriByte .portraitSwapped, oriByte .landscapeSwapped]

/-- The spec admits the instruction. -/
def Instr.wf : Instr → Bool
  | .init _ _ _ _ => true
  | .hardReset _ _ _ _ => true
  | .setOrientation _ _ _ _ _ => true
  | .setPixel _ _ _ _ => true
  | .setPixels _ _ _ _ => true
  | .swreset => true
  | .slpout => true
  | .invoff => true
  | .madctl b => madctlBytes.contains b
  | .colmod b => b == colmodInit
  | .invon => true
  | .noron => true
  | .dispon => true
  | .caset _ _ => true
  | .raset _ _ => true
  | .ramwr => true

end Sys2Proof
end

