-- ==== Sys2Proof/Decode.lean ====
section
/-! DEFINITION. The decoder, total on any bytes and rejecting by name, and the encoder after it: request descriptors
(spec/30_encoding.md R70 to R77) and command frames (R79, R81 to R88). -/

namespace Sys2Proof

/-- Why bytes are no instruction. -/
inductive DecodeError where
  /-- RSV ≠ 0 (R76). -/
  | reservedBits
  /-- OP = 0x0 or 0x6 .. 0xF (R76). -/
  | reservedOp
  /-- ORI ≠ 0 with OP ≠ 0x3 (R76). -/
  | reservedOri
  /-- Fewer bytes than a descriptor or a command frame has (R70, R87). -/
  | truncated
  /-- A first byte that is none of the eleven opcodes (R88). -/
  | unknownOpcode
  deriving DecidableEq, Repr

/-- The request a code and its operands stand for (R71 to R77). -/
def decodeReq (req : Byte) (a b c d : Word) : Except DecodeError Instr :=
  if reqRsv req ≠ 0#2 then .error .reservedBits
  else if reqOp req = 3#4 then .ok (.setOrientation (oriOfCode (reqOri req)) a b c d)
  else if (reqOp req).toNat = 0 ∨ 5 < (reqOp req).toNat then .error .reservedOp
  else if reqOri req ≠ 0#2 then .error .reservedOri
  else if reqOp req = 1#4 then .ok (.init a b c d)
  else if reqOp req = 2#4 then .ok (.hardReset a b c d)
  else if reqOp req = 4#4 then .ok (.setPixel a b c d)
  else .ok (.setPixels a b c d)

/-- A descriptor's decoding (R70). -/
def decodeDesc (d : Desc) : Except DecodeError Instr :=
  decodeReq (descReq d) (descA d) (descB d) (descC d) (descD d)

/-- A descriptor as bytes, REQ first, and what follows it. -/
def decodeRequest : List Byte → Except DecodeError (Instr × List Byte)
  | r :: ah :: al :: bh :: bl :: ch :: cl :: dh :: dl :: rest =>
    match decodeReq r (wordOf ah al) (wordOf bh bl) (wordOf ch cl) (wordOf dh dl) with
    | .ok i => .ok (i, rest)
    | .error e => .error e
  | _ => .error .truncated

/-- A command whose frame has no parameter byte (R86). -/
def frame0 (i : Instr) (rest : List Byte) : Except DecodeError (Instr × List Byte) := .ok (i, rest)

/-- A command whose frame has one parameter byte (R84, R85). -/
def frame1 (i : Byte → Instr) : List Byte → Except DecodeError (Instr × List Byte)
  | p :: rest => .ok (i p, rest)
  | [] => .error .truncated

/-- A command whose frame has two big-endian words (R82, R83). -/
def frame4 (i : Word → Word → Instr) : List Byte → Except DecodeError (Instr × List Byte)
  | p :: q :: r :: t :: rest => .ok (i (wordOf p q) (wordOf r t), rest)
  | _ => .error .truncated

/-- A command frame: the opcode fixes how many parameter bytes follow (R81, R87). -/
def decodeFrame (o : Opcodes) : List Byte → Except DecodeError (Instr × List Byte)
  | [] => .error .truncated
  | op :: rest =>
    if op = o.swreset then frame0 .swreset rest
    else if op = o.slpout then frame0 .slpout rest
    else if op = o.invoff then frame0 .invoff rest
    else if op = o.madctl then frame1 .madctl rest
    else if op = o.colmod then frame1 .colmod rest
    else if op = o.invon then frame0 .invon rest
    else if op = o.noron then frame0 .noron rest
    else if op = o.dispon then frame0 .dispon rest
    else if op = o.caset then frame4 .caset rest
    else if op = o.raset then frame4 .raset rest
    else if op = o.ramwr then frame0 .ramwr rest
    else .error .unknownOpcode

/-- The decoder of either encoding. -/
def decode (o : Opcodes) : Port → List Byte → Except DecodeError (Instr × List Byte)
  | .request, bs => decodeRequest bs
  | .bus, bs => decodeFrame o bs

/-- The bytes of a table word: bits 7..0 first, zeros above nbits up to the longest instruction (nine bytes). -/
def tableBytes (nbits w : Nat) : List Byte :=
  (List.range (max 9 ((nbits + 7) / 8))).map fun k => BitVec.ofNat 8 ((w % 2 ^ nbits) / 2 ^ (8 * k))

/-- The row of spec/opcode_table.json fixes every bit of REQ: all but SET_ORIENTATION's do. -/
def Instr.wholeByteRow : Instr → Bool
  | .init _ _ _ _ => true
  | .hardReset _ _ _ _ => true
  | .setOrientation _ _ _ _ _ => false
  | .setPixel _ _ _ _ => true
  | .setPixels _ _ _ _ => true
  | .swreset => true
  | .slpout => true
  | .invoff => true
  | .madctl _ => true
  | .colmod _ => true
  | .invon => true
  | .noron => true
  | .dispon => true
  | .caset _ _ => true
  | .raset _ _ => true
  | .ramwr => true

/-- The instruction read from a word of spec/opcode_table.json. The table's two formats share the bytes 0x01 (INIT and
SWRESET) and 0x13 (SET_ORIENTATION and NORON), and a word carries no format. Of two rows that fit, the one that fixes
more bits is read, and of two that fix all the first (notes/assumptions/3.md). The opcodes are the default ones. -/
def decodeTableWord (nbits w : Nat) : Option Instr :=
  match decodeRequest (tableBytes nbits w), decodeFrame Opcodes.default (tableBytes nbits w) with
  | .ok (i, _), .ok (j, _) => if i.wholeByteRow then some i else some j
  | .ok (i, _), .error _ => some i
  | .error _, .ok (j, _) => some j
  | .error _, .error _ => none

/-- The descriptor made of the first nine bytes. -/
def descOfBytes : List Byte → Desc
  | r :: ah :: al :: bh :: bl :: ch :: cl :: dh :: dl :: _ =>
    descOf r (wordOf ah al) (wordOf bh bl) (wordOf ch cl) (wordOf dh dl)
  | _ => 0

/-- The operand words of a request as bytes (R70). -/
def encodeOperands (a b c d : Word) : List Byte := be16 a ++ be16 b ++ be16 c ++ be16 d

/-- The bytes of an instruction: a descriptor with REQ first (R70 to R74), or a command frame (R81 to R86). -/
def encode (o : Opcodes) : Instr → List Byte
  | .init a b c d => reqByte 0#2 1#4 :: encodeOperands a b c d
  | .hardReset a b c d => reqByte 0#2 2#4 :: encodeOperands a b c d
  | .setOrientation ori a b c d => reqByte (oriCode ori) 3#4 :: encodeOperands a b c d
  | .setPixel x y color d => reqByte 0#2 4#4 :: encodeOperands x y color d
  | .setPixels sx sy ex ey => reqByte 0#2 5#4 :: encodeOperands sx sy ex ey
  | .swreset => [o.swreset]
  | .slpout => [o.slpout]
  | .invoff => [o.invoff]
  | .madctl b => [o.madctl, b]
  | .colmod b => [o.colmod, b]
  | .invon => [o.invon]
  | .noron => [o.noron]
  | .dispon => [o.dispon]
  | .caset sx ex => o.caset :: (be16 sx ++ be16 ex)
  | .raset sy ey => o.raset :: (be16 sy ++ be16 ey)
  | .ramwr => [o.ramwr]

/-- The descriptor of a request, as a number (R70). -/
def encodeDesc (i : Instr) : Desc := descOfBytes (encode Opcodes.default i)

end Sys2Proof
end

