-- ==== Sys2Proof/Machine/State.lean ====
section
/-! DEFINITION. The state of the block as plain data (spec/10_state.md R20 to R36), with the model's own record of
the work a running request still has to do and of the inputs the environment supplies; and the state after
construction, which is the block's reset (spec/41_init_fsm.md R100, spec/70_reset_and_hazards.md R190). -/

namespace Sys2Proof.Machine

/-- PHASE (R26). -/
inductive Phase where
  | idle
  | busy
  deriving DecidableEq, Repr

/-- RESULT (R28). -/
inductive Result where
  | ok
  | errTransport
  | errPin
  deriving DecidableEq, Repr

/-- The error kinds a primitive raises (R12, R170). -/
inductive ErrorKind where
  | transportError
  | pinError
  deriving DecidableEq, Repr

/-- The levels the block drives on the Reset Line (R32). -/
inductive PinLevel where
  | high
  | low
  deriving DecidableEq, Repr

/-- The levels the block drives on the chip-select line (R33); no polarity is modelled. -/
inductive Select where
  | sel
  | desel
  deriving DecidableEq, Repr

/-- Command and data context (R34, R79). -/
inductive Ctx where
  | cmd
  | data
  deriving DecidableEq, Repr

/-- What the block knows of a line it drives: the level last driven, or UNKNOWN (R32 to R34). -/
inductive Line (α : Type) where
  | driven (level : α)
  | unknown
  deriving DecidableEq, Repr

/-- The event-emitting primitives of R12, which are also the event alphabet of R36. -/
inductive Prim where
  | pinRst (l : PinLevel)
  | pinCs (s : Select)
  | pinDc (c : Ctx)
  | send (c : Ctx) (bytes : List Byte)
  | wait (us : Nat)
  deriving DecidableEq, Repr

/-- An event of TRACE: the primitive with its outcome (R36). -/
structure Event where
  prim    : Prim
  outcome : Answer
  deriving DecidableEq, Repr

/-- The causes of `refuse` (R173). -/
inductive RefuseReason where
  | reservedRequest
  | noDelayProvider
  | resultReadBeforeCompletion
  deriving DecidableEq, Repr

/-- One entry of the work a request still has to do, in pseudocode order. `prim`, `pull` and `cmd` reach a primitive
of R12; the others are the register writes that stand between two primitives and take effect with the primitive
before them (R195). -/
inductive MicroOp where
  /-- One event-emitting primitive. -/
  | prim (p : Prim)
  /-- The `Pull()` at the head of STREAM's loop (R125). -/
  | pull
  /-- `FRAME_CMD` of one controller command (R140). -/
  | cmd (i : Instr)
  /-- `FILL <- 0` (R125). -/
  | clearFill
  /-- `BUF[0] <- hi(C); BUF[1] <- lo(C); FILL <- 1` (R128). -/
  | stagePixel
  /-- `if FILL > 0: FLUSH()` (R125). -/
  | flush
  /-- `CTL_INIT <- true` (R104). -/
  | markInit
  deriving DecidableEq, Repr

/-- What becomes of the Pulls after a stream's listed tokens (R125): the host answers none of them, or it goes on with WORD
tokens without end, whose colours are `Config.freeColour` at next, next + 1, ... (notes/assumptions/13.md). -/
inductive StreamEnd where
  | unanswered
  | endless (next : Nat)
  deriving DecidableEq, Repr

/-- The colour stream of a request (R78, R125): the tokens the host answers Pulls with, next first, and what it does when
they are used up. -/
structure TokenStream where
  tokens : List Token
  after  : StreamEnd
  deriving DecidableEq, Repr

/-- What the host presents to an idle block: a request with the colour stream it will answer Pulls from (R37, R89),
or a read of RESULT (R28). -/
inductive HostOp where
  | request (desc : Desc) (stream : TokenStream)
  | readResult
  deriving DecidableEq, Repr

/-- The whole state. -/
structure State where
  /-- CFG_* and OPC_* (R20, R7). -/
  cfg : Config
  /-- The operand latches (R24). -/
  req : Byte
  a : Word
  b : Word
  c : Word
  d : Word
  /-- PHASE (R26). -/
  phase : Phase
  /-- STEP (R27). -/
  stepCount : Nat
  /-- RESULT (R28); `none` until the first completion, which is the spec's own state: a read is then refused. -/
  result : Option Result
  /-- REFUSED (R30). -/
  refused : Bool
  /-- BUF (R31): byte index and byte, indices strictly rising; an unlisted index holds no value. -/
  buf : List Host.Cell
  /-- FILL (R31). -/
  fill : Nat
  /-- RST_LVL (R32). -/
  rstLvl : Line PinLevel
  /-- CS_LVL (R33). -/
  csLvl : Line Select
  /-- DC_LVL (R34). -/
  dcLvl : Line Ctx
  /-- CTL_INIT (R35). -/
  ctlInit : Bool
  /-- TRACE (R36), oldest event first. -/
  trace : List Event
  /-- MODEL: what the running request still has to do, next first; the rest of the position R27 speaks of. -/
  todo : List MicroOp
  /-- MODEL: what the host presents, next first (R37). -/
  hostOps : List HostOp
  /-- MODEL: what the host answers the running request's Pulls with (R37, R78, R125). -/
  stream : TokenStream
  /-- MODEL: the environment's scripted answers to fallible primitives, next first (R12). -/
  answers : List Answer
  /-- MODEL: how many answers were drawn from `Config.freeAnswer`. -/
  draws : Nat
  /-- MODEL: the values of RESULT returned to the host, oldest first (R28, R37). -/
  responses : List Result
  /-- MODEL: the reasons of the refusals so far, oldest first (R173). -/
  refusals : List RefuseReason
  deriving DecidableEq, Repr

/-- Where the machine stops. No state that a run reaches does: see `Safety.Inv`. -/
inductive Fault where
  /-- A byte of BUF that holds no value is read (R31: "no rule reads BUF[j] for j >= 2*FILL"). Raised by the flush;
  safe. -/
  | bufNoValue
  /-- A byte of BUF outside 0 .. 2*CFG_CHUNK - 1 is written (R31 gives BUF no such byte). Raised by staging a colour;
  safe. -/
  | bufOutOfRange
  deriving DecidableEq, Repr

/-- Why an instruction has no meaning. The spec's own refusals (R173) are no stop: they set REFUSED. -/
inductive Refusal where
  /-- No meaning written yet. Raised by a refused arm of exec only; safe. -/
  | notModelled (mnemonic : String)
  deriving DecidableEq, Repr

/-- The three outcomes at this machine's types. -/
abbrev Outcome := Host.Outcome State Fault Refusal

/-- Construction (R100): the configuration is stored, nothing is driven or sent. The latches hold no value in the
spec and 0 here (DESIGN CHOICE, notes/assumptions/4.md). -/
def State.construct (cfg : Config) : State where
  cfg := cfg
  req := 0
  a := 0
  b := 0
  c := 0
  d := 0
  phase := .idle
  stepCount := 0
  result := none
  refused := false
  buf := []
  fill := 0
  rstLvl := .unknown
  csLvl := .unknown
  dcLvl := .unknown
  ctlInit := false
  trace := []
  todo := []
  hostOps := []
  stream := ⟨[], .unanswered⟩
  answers := []
  draws := 0
  responses := []
  refusals := []

/-- The block right after construction with the default parameters. -/
def State.reset : State := State.construct Config.default

end Sys2Proof.Machine
end

