-- ==== Sys2Proof/Machine/Flags.lean ====
section
/-! DEFINITION. The block's only status, RESULT (spec/10_state.md R28, R29; spec/60_exceptions.md R170): its codes,
which error kind gives which value, and the error kind of each primitive. -/

namespace Sys2Proof.Machine

/-- The codes of R28; code 3 is never written. -/
def Result.code : Result → BitVec 2
  | .ok => 0#2
  | .errTransport => 1#2
  | .errPin => 2#2

/-- The RESULT an error kind is reported as (R170, R175). -/
def ErrorKind.result : ErrorKind → Result
  | .transportError => .errTransport
  | .pinError => .errPin

/-- What a primitive raises on FAIL (R12, R171, R172); `none` for Wait, which is always OK. -/
def Prim.error : Prim → Option ErrorKind
  | .pinRst _ => some .pinError
  | .pinCs _ => some .pinError
  | .pinDc _ => some .pinError
  | .send _ _ => some .transportError
  | .wait _ => none

/-- The primitive asks the environment for an outcome (R12). -/
def Prim.fallible (p : Prim) : Bool := p.error.isSome

end Sys2Proof.Machine
end

