-- ==== Sys2Proof/Machine/Memory.lean ====
section
/-! DEFINITION. The staging buffer BUF (spec/10_state.md R31), the one byte array the block reads and writes: a list of
(index, byte) cells in canonical form, where an unlisted index holds no value. -/

namespace Sys2Proof.Machine

/-- The indices rise strictly. An unlisted index reads as no value, so no entry can be redundant. -/
abbrev Memory.wf (m : List Host.Cell) : Prop := m.Pairwise fun p q => p.1 < q.1

/-- `BUF[j]`; `none` where it holds no value. -/
def Memory.read : List Host.Cell → Nat → Option Byte
  | [], _ => none
  | (k, v) :: m, j => if k = j then some v else Memory.read m j

/-- `BUF[j] <- v`, keeping the indices rising. -/
def Memory.write : List Host.Cell → Nat → Byte → List Host.Cell
  | [], j, v => [(j, v)]
  | (k, w) :: m, j, v =>
    if j < k then (j, v) :: (k, w) :: m
    else if j = k then (j, v) :: m
    else (k, w) :: Memory.write m j v

/-- `[BUF[j], ..., BUF[j+n-1]]`, if each of them holds a value. -/
def Memory.readRange (m : List Host.Cell) : Nat → Nat → Option (List Byte)
  | _, 0 => some []
  | j, n + 1 =>
    match Memory.read m j, Memory.readRange m (j + 1) n with
    | some v, some vs => some (v :: vs)
    | _, _ => none

/-- Colour word number FILL is staged: `BUF[2*FILL] <- hi(w); BUF[2*FILL + 1] <- lo(w); FILL <- FILL + 1` (R125). -/
def State.staged (w : Word) (s : State) : State :=
  { s with
    buf := Memory.write (Memory.write s.buf (2 * s.fill) (hiByte w)) (2 * s.fill + 1) (loByte w)
    fill := s.fill + 1 }

/-- Staging where BUF has the bytes of word number FILL (R31: indices 0 .. 2*CFG_CHUNK - 1); `none` where not. -/
def State.stageWord (w : Word) (s : State) : Option State :=
  if s.fill < s.cfg.chunk then some (s.staged w) else none

/-- The bytes FLUSH sends: `[BUF[0], ..., BUF[2*FILL - 1]]` (R125). -/
def State.stagedBytes (s : State) : Option (List Byte) := Memory.readRange s.buf 0 (2 * s.fill)

end Sys2Proof.Machine
end

