-- ==== Sys2Proof/Machine/Ops.lean ====
section
/-! DEFINITION. The operations every request shares: performing one primitive (spec/00_scope.md R12), completion
(spec/41_init_fsm.md R102), the abort (spec/60_exceptions.md R175) and the refusal (R173), the frames (spec/43_framer.md
R140, R141), and one step of the stream phase (spec/42_window_sequencer.md R125). -/

namespace Sys2Proof.Machine

/-! ### The environment's answers -/

/-- The k-th coming answer of the environment: scripted, then free (R12). -/
def State.answerAt (k : Nat) (s : State) : Answer :=
  match s.answers[k]? with
  | some a => a
  | none => Config.freeAnswer (s.draws + (k - s.answers.length))

/-- The environment's answer to the next fallible primitive. -/
def State.nextAnswer (s : State) : Answer := s.answerAt 0

/-- The answer to one Pull (R12, R125), with the stream after it; none where the host does not answer. -/
def TokenStream.pull : TokenStream → Option (Token × TokenStream)
  | ⟨t :: ts, after⟩ => some (t, ⟨ts, after⟩)
  | ⟨[], .endless next⟩ => some (wordToken (Config.freeColour next), ⟨[], .endless (next + 1)⟩)
  | ⟨[], .unanswered⟩ => none

/-! ### Line levels -/

/-- The level a drive leaves: the driven one on OK, UNKNOWN on FAIL (R32 to R34). -/
def Line.after {α : Type} (l : α) : Answer → Line α
  | .ok => .driven l
  | .fail => .unknown

/-- RST_LVL after a primitive (R32). -/
def Prim.rstAfter (p : Prim) (o : Answer) (old : Line PinLevel) : Line PinLevel :=
  match p with
  | .pinRst l => Line.after l o
  | .pinCs _ => old
  | .pinDc _ => old
  | .send _ _ => old
  | .wait _ => old

/-- CS_LVL after a primitive (R33). -/
def Prim.csAfter (p : Prim) (o : Answer) (old : Line Select) : Line Select :=
  match p with
  | .pinRst _ => old
  | .pinCs l => Line.after l o
  | .pinDc _ => old
  | .send _ _ => old
  | .wait _ => old

/-- DC_LVL after a primitive (R34). -/
def Prim.dcAfter (p : Prim) (o : Answer) (old : Line Ctx) : Line Ctx :=
  match p with
  | .pinRst _ => old
  | .pinCs _ => old
  | .pinDc l => Line.after l o
  | .send _ _ => old
  | .wait _ => old

/-! ### Named updates -/

/-- The work that is left is ops. -/
def State.withTodo (ops : List MicroOp) (s : State) : State := { s with todo := ops }

/-- `FILL <- 0` (R125). -/
def State.clearFill (s : State) : State := { s with fill := 0 }

/-- `CTL_INIT <- b` (R35). -/
def State.setCtlInit (b : Bool) (s : State) : State := { s with ctlInit := b }

/-- A Pull was answered (R12, R27): stream is left and STEP counts the primitive; there is no event. -/
def State.pulled (stream : TokenStream) (s : State) : State :=
  { s with stream := stream, stepCount := s.stepCount + 1 }

/-- What the host presents was taken: ops are still to come, and Pulls are answered from stream (R37). -/
def State.withHost (ops : List HostOp) (stream : TokenStream) (s : State) : State :=
  { s with hostOps := ops, stream := stream }

/-! ### Completion, abort, refusal -/

/-- COMPLETE_OK (R102): RESULT <- OK, PHASE <- IDLE, and the host's call returns RESULT. -/
def State.complete (s : State) : State :=
  { s with result := some .ok, phase := .idle, responses := s.responses ++ [.ok], todo := [] }

/-- `raise E` (R175), the block's exception entry: RESULT and CTL_INIT are written, the staged colours discarded,
PHASE is IDLE, no further primitive runs, and the host's call returns RESULT. There is no return instruction: the
host may present any request next (R180). -/
def State.abort (e : ErrorKind) (s : State) : State :=
  { s with result := some e.result, ctlInit := false, fill := 0, phase := .idle,
           responses := s.responses ++ [e.result], todo := [] }

/-- `refuse(reason)` (R173): REFUSED <- true, no event, no RESULT. -/
def State.refuse (r : RefuseReason) (s : State) : State :=
  { s with refused := true, refusals := s.refusals ++ [r] }

/-- The host reads RESULT (R28): refused before the first completion. -/
def State.readResult (s : State) : State :=
  match s.result with
  | some r => { s with responses := s.responses ++ [r] }
  | none => s.refuse .resultReadBeforeCompletion

/-! ### Frames -/

/-- The chip-select drive of a frame, present only where the line is (R140). -/
def csPrims (cfg : Config) (l : Select) : List Prim := if cfg.hasCs then [.pinCs l] else []

/-- FRAME_CMD(op, params) (R140). -/
def frameCmd (cfg : Config) (op : Byte) (params : List Byte) : List Prim :=
  match cfg.variant with
  | .discrete =>
    csPrims cfg .sel ++ [.pinDc .cmd, .send .cmd [op]]
      ++ (if params = [] then [] else [.pinDc .data, .send .data params]) ++ csPrims cfg .desel
  | .unified => .send .cmd [op] :: (if params = [] then [] else [.send .data params])

/-- FRAME_DATA(bytes) (R141). -/
def frameData (cfg : Config) (bytes : List Byte) : List Prim :=
  match cfg.variant with
  | .discrete => csPrims cfg .sel ++ [.pinDc .data, .send .data bytes] ++ csPrims cfg .desel
  | .unified => [.send .data bytes]

/-! ### Running -/

/-- What happens between a primitive and the next one, in pseudocode order: the register writes that need no primitive
(R195), the start of a flush, and the completion of a request that has nothing left to do. FLUSH with FILL = 0 is not
called (R125, R130). -/
def settle : List MicroOp → State → Outcome
  | [], s => .next s.complete
  | .prim p :: r, s => .next (s.withTodo (.prim p :: r))
  | .pull :: r, s => .next (s.withTodo (.pull :: r))
  | .cmd i :: r, s => .next (s.withTodo (.cmd i :: r))
  | .clearFill :: r, s => settle r s.clearFill
  | .markInit :: r, s => settle r (s.setCtlInit true)
  | .stagePixel :: r, s =>
    match s.clearFill.stageWord s.c with
    | some s' => settle r s'
    | none => .fault .bufOutOfRange
  | .flush :: r, s =>
    if s.fill = 0 then settle r s
    else
      match s.stagedBytes with
      | some bytes => .next (s.withTodo ((frameData s.cfg bytes).map .prim ++ .clearFill :: r))
      | none => .fault .bufNoValue

/-- A primitive took place with outcome o: its event is in TRACE (R36), STEP counts it (R27: a failed one too,
95_test_vectors.md V-SP8 and P4), the line it drove has its level, and the environment's answer is used up. -/
def State.performed (p : Prim) (o : Answer) (s : State) : State :=
  { s with
    trace := s.trace ++ [⟨p, o⟩]
    stepCount := s.stepCount + 1
    rstLvl := p.rstAfter o s.rstLvl
    csLvl := p.csAfter o s.csLvl
    dcLvl := p.dcAfter o s.dcLvl
    answers := if p.fallible then s.answers.tail else s.answers
    draws := if p.fallible && s.answers.isEmpty then s.draws + 1 else s.draws }

/-- One primitive (R12), with s.todo the work after it. -/
def runPrim (p : Prim) (s : State) : Outcome :=
  match p.error with
  | none => settle s.todo (s.performed p .ok)
  | some e =>
    match s.nextAnswer with
    | .ok => settle s.todo (s.performed p .ok)
    | .fail => .next ((s.performed p .fail).abort e)

/-- The first of ps now, the others next, then s.todo. -/
def runFrame (ps : List Prim) (s : State) : Outcome :=
  match ps with
  | [] => settle s.todo s
  | p :: rest => runPrim p (s.withTodo (rest.map .prim ++ s.todo))

/-- FRAME_CMD(op, params) begins, with s.todo the work after the frame (R140). -/
def beginCommand (op : Byte) (params : List Byte) (s : State) : Outcome :=
  runFrame (frameCmd s.cfg op params) s

/-- One Pull of STREAM's loop (R125), with s.todo the work after the loop. An unanswered Pull leaves the block
waiting: nothing changes. -/
def runPull (s : State) : Outcome :=
  match s.stream.pull with
  | none => .next (s.withTodo (.pull :: s.todo))
  | some (t, stream) =>
    match tokenItem t with
    | .endOfStream => settle (.flush :: s.todo) (s.pulled stream)
    | .word c =>
      match (s.pulled stream).stageWord c with
      | none => .fault .bufOutOfRange
      | some s' =>
        if s'.fill = s'.cfg.chunk then settle (.flush :: .pull :: s.todo) s'
        else .next (s'.withTodo (.pull :: s.todo))

end Sys2Proof.Machine
end

