-- ==== Sys2Proof/Machine/Framer.lean ====
section
/-! DEFINITION. The command_data_framer sub-block: the eleven controller commands (spec/43_framer.md R145 to R155).
A command's meaning is its frame, `FRAME_CMD(op, params)`. One primitive is one step (spec/00_scope.md R5, R12), so
the frame's first primitive runs now and the rest of the frame is put in front of the work that follows. The waits of
INIT stand after the frames, in INIT's own work (R105). -/

namespace Sys2Proof.Machine

/-- SWRESET (R145). -/
def execSwreset (s : State) : Outcome := beginCommand s.cfg.opc.swreset [] s

/-- SLPOUT (R146). -/
def execSlpout (s : State) : Outcome := beginCommand s.cfg.opc.slpout [] s

/-- INVOFF (R147). -/
def execInvoff (s : State) : Outcome := beginCommand s.cfg.opc.invoff [] s

/-- MADCTL (R148, R84). -/
def execMadctl (b : Byte) (s : State) : Outcome := beginCommand s.cfg.opc.madctl [b] s

/-- COLMOD (R149, R85). -/
def execColmod (b : Byte) (s : State) : Outcome := beginCommand s.cfg.opc.colmod [b] s

/-- INVON (R150). -/
def execInvon (s : State) : Outcome := beginCommand s.cfg.opc.invon [] s

/-- NORON (R151). -/
def execNoron (s : State) : Outcome := beginCommand s.cfg.opc.noron [] s

/-- DISPON (R152). -/
def execDispon (s : State) : Outcome := beginCommand s.cfg.opc.dispon [] s

/-- CASET (R153, R82). -/
def execCaset (sx ex : Word) (s : State) : Outcome := beginCommand s.cfg.opc.caset (be16 sx ++ be16 ex) s

/-- RASET (R154, R83). -/
def execRaset (sy ey : Word) (s : State) : Outcome := beginCommand s.cfg.opc.raset (be16 sy ++ be16 ey) s

/-- RAMWR (R155). -/
def execRamwr (s : State) : Outcome := beginCommand s.cfg.opc.ramwr [] s

end Sys2Proof.Machine
end

