-- ==== Sys2Proof/Machine/Operands.lean ====
section
/-! DEFINITION. Request acceptance (spec/41_init_fsm.md R101): the operand latches are the block's only operand form
(spec/10_state.md R24, R25). -/

namespace Sys2Proof.Machine

/-- The descriptor's fields are latched and the request starts (R101). -/
def State.latch (req : Byte) (a b c d : Word) (s : State) : State :=
  { s with req := req, a := a, b := b, c := c, d := d, phase := .busy, stepCount := 0, fill := 0 }

/-- A request that needs no Delay Provider: accepted when IDLE, with its work to do; not accepted while BUSY, where
it changes nothing (R26, R101). -/
def accept (req : Byte) (a b c d : Word) (work : State → List MicroOp) (s : State) : Outcome :=
  match s.phase with
  | .busy => .next s
  | .idle => .next ((s.latch req a b c d).withTodo (work (s.latch req a b c d)))

/-- A request that needs the Delay Provider (R112). With it, CTL_INIT is cleared and the work starts (R103, R104).
Without it the request is refused; the block is then IDLE again (DESIGN CHOICE, notes/assumptions/5.md: "the rest of
the state is of no account"). -/
def acceptTimed (req : Byte) (a b c d : Word) (work : List MicroOp) (s : State) : Outcome :=
  match s.phase with
  | .busy => .next s
  | .idle =>
    if s.cfg.hasDelay then .next (((s.latch req a b c d).setCtlInit false).withTodo work)
    else .next { (s.latch req a b c d).refuse .noDelayProvider with phase := .idle }

end Sys2Proof.Machine
end

