-- ==== Sys2Proof/Machine/InitFsm.lean ====
section
/-! DEFINITION. The display_init_fsm sub-block: INIT and HARD_RESET (spec/41_init_fsm.md). -/

namespace Sys2Proof.Machine

/-- HARD_RESET_SEQ (R103): high, low, high, each with its own wait (R111). -/
def hardResetSeq : List MicroOp :=
  [.prim (.pinRst .high), .prim (.wait tRstUs),
   .prim (.pinRst .low), .prim (.wait tRstUs),
   .prim (.pinRst .high), .prim (.wait tRstUs)]

/-- INIT_SEQ (R105): each command with the wait after its frame, if any. -/
def initSeq : List (Instr × Option Nat) :=
  [(.swreset, some tSwresetUs),
   (.slpout, some tSlpoutUs),
   (.invoff, none),
   (.madctl madctlInit, none),
   (.colmod colmodInit, none),
   (.invon, some tInvonUs),
   (.noron, some tNoronUs),
   (.dispon, some tDisponUs)]

/-- One row of INIT_SEQ: the frame, then the wait (R104). -/
def initRow : Instr × Option Nat → List MicroOp
  | (i, none) => [.cmd i]
  | (i, some us) => [.cmd i, .prim (.wait us)]

/-- INIT after acceptance (R104). -/
def initWork : List MicroOp := hardResetSeq ++ initSeq.flatMap initRow ++ [.markInit]

/-- INIT (R104). -/
def execInit (a b c d : Word) (s : State) : Outcome :=
  acceptTimed (reqByte 0#2 1#4) a b c d initWork s

/-- HARD_RESET (R103). -/
def execHardReset (a b c d : Word) (s : State) : Outcome :=
  acceptTimed (reqByte 0#2 2#4) a b c d hardResetSeq s

end Sys2Proof.Machine
end

