-- ==== Sys2Proof/Machine/WindowSequencer.lean ====
section
/-! DEFINITION. The address_window_sequencer sub-block: SET_ORIENTATION, SET_PIXELS and SET_PIXEL
(spec/42_window_sequencer.md). Each request's work is computed from the latches (R23, R123). -/

namespace Sys2Proof.Machine

/-- WINDOW(sx, sy, ex, ey) (R122, R123): column first. -/
def window (sx sy ex ey : Word) : List MicroOp := [.cmd (.caset sx ex), .cmd (.raset sy ey)]

/-- SET_ORIENTATION after acceptance (R120): ORI is read from REQ. -/
def orientationWork (s : State) : List MicroOp := [.cmd (.madctl (oriByte (oriOfCode (reqOri s.req))))]

/-- SET_PIXELS after acceptance (R122, R125): the window, memory-write, then STREAM. -/
def pixelsWork (s : State) : List MicroOp :=
  window s.a s.b s.c s.d ++ [.cmd .ramwr, .clearFill, .pull]

/-- SET_PIXEL after acceptance (R128): the one colour comes from latch C and no Pull is made. -/
def pixelWork (s : State) : List MicroOp :=
  window s.a s.b s.a s.b ++ [.cmd .ramwr, .stagePixel, .flush]

/-- SET_ORIENTATION (R120). -/
def execSetOrientation (ori : Orientation) (a b c d : Word) (s : State) : Outcome :=
  accept (reqByte (oriCode ori) 3#4) a b c d orientationWork s

/-- SET_PIXEL (R128). -/
def execSetPixel (x y color d : Word) (s : State) : Outcome :=
  accept (reqByte 0#2 4#4) x y color d pixelWork s

/-- SET_PIXELS (R122). -/
def execSetPixels (sx sy ex ey : Word) (s : State) : Outcome :=
  accept (reqByte 0#2 5#4) sx sy ex ey pixelsWork s

end Sys2Proof.Machine
end

