-- ==== Sys2Proof/Machine/Dispatch.lean ====
section
/-! DEFINITION. One arm per instruction of spec/opcode_table.json. -/

namespace Sys2Proof.Machine

def exec (i : Instr) (s : State) : Host.Outcome State Fault Refusal :=
  match i with
  | .init a b c d => Sys2Proof.Machine.execInit a b c d s
  | .hardReset a b c d => Sys2Proof.Machine.execHardReset a b c d s
  | .setOrientation ori a b c d => Sys2Proof.Machine.execSetOrientation ori a b c d s
  | .setPixel x y color d => Sys2Proof.Machine.execSetPixel x y color d s
  | .setPixels sx sy ex ey => Sys2Proof.Machine.execSetPixels sx sy ex ey s
  | .swreset => Sys2Proof.Machine.execSwreset s
  | .slpout => Sys2Proof.Machine.execSlpout s
  | .invoff => Sys2Proof.Machine.execInvoff s
  | .madctl b => Sys2Proof.Machine.execMadctl b s
  | .colmod b => Sys2Proof.Machine.execColmod b s
  | .invon => Sys2Proof.Machine.execInvon s
  | .noron => Sys2Proof.Machine.execNoron s
  | .dispon => Sys2Proof.Machine.execDispon s
  | .caset sx ex => Sys2Proof.Machine.execCaset sx ex s
  | .raset sy ey => Sys2Proof.Machine.execRaset sy ey s
  | .ramwr => Sys2Proof.Machine.execRamwr s

end Sys2Proof.Machine
end

