-- ==== Sys2Proof/Machine/Sequencer.lean ====
section
/-! DEFINITION. What one step of the block is (spec/00_scope.md R5): idle, it takes what the host presents
(spec/41_init_fsm.md R101); busy, it performs the next primitive of the running request (spec/10_state.md R27). -/

namespace Sys2Proof.Machine

/-- An idle block. A legal request is executed, which accepts it; a reserved one is refused and changes nothing but
REFUSED (R76, R101); a read of RESULT is answered (R28). With nothing presented the block waits. -/
def idleStep (s : State) : Outcome :=
  match s.hostOps with
  | [] => .next s
  | .readResult :: rest => .next (s.withHost rest s.stream).readResult
  | .request desc stream :: rest =>
    match decodeDesc desc with
    | .ok i => exec i (s.withHost rest stream)
    | .error _ => .next ((s.withHost rest s.stream).refuse .reservedRequest)

/-- A busy block: the work at the head of what the request still has to do. A controller command is executed, which
begins its frame. The last cases stand for states no run reaches (`Safety.Inv`). -/
def busyStep (s : State) : Outcome :=
  match s.todo with
  | .prim p :: rest => runPrim p (s.withTodo rest)
  | .pull :: rest => runPull (s.withTodo rest)
  | .cmd i :: rest => exec i (s.withTodo rest)
  | .clearFill :: rest => settle (.clearFill :: rest) s
  | .stagePixel :: rest => settle (.stagePixel :: rest) s
  | .flush :: rest => settle (.flush :: rest) s
  | .markInit :: rest => settle (.markInit :: rest) s
  | [] => .next s.complete

/-- One step of the block. -/
def blockStep (s : State) : Outcome :=
  match s.phase with
  | .idle => idleStep s
  | .busy => busyStep s

/-- s about to take the instruction of a table word: a request is what an idle block is presented with next (with no
stream token yet), a controller command is what a busy block issues next (notes/assumptions/3.md). -/
def placeWord (s : State) (nbits w : Nat) : State :=
  match decodeTableWord nbits w with
  | some i =>
    match i.port with
    | .request =>
      { s with phase := .idle, todo := [],
               hostOps := .request (descOfBytes (tableBytes nbits w)) ⟨[], .unanswered⟩ :: s.hostOps }
    | .bus => { s with phase := .busy, todo := .cmd i :: s.todo }
  | none =>
    { s with phase := .idle, todo := [],
             hostOps := .request (descOfBytes (tableBytes nbits w)) ⟨[], .unanswered⟩ :: s.hostOps }

end Sys2Proof.Machine
end

