-- ==== Sys2Proof/Machine/Step.lean ====
section
/-! DEFINITION. The step function and the placing of one instruction before it. -/

namespace Sys2Proof.Machine

/-- One step (spec/00_scope.md R5): at most one event. -/
def step (s : State) : Host.Outcome State Fault Refusal := blockStep s

/-- s with the instruction of a table word where the next step takes it. -/
def State.withFetchWord (s : State) (nbits w : Nat) : State := placeWord s nbits w

end Sys2Proof.Machine
end

