-- ==== Sys2Proof/Machine/Assembler.lean ====
section
/-! DEFINITION. The assembler syntax of requests (spec/30_encoding.md R89, R90): a line's text to what the host
presents. Blanks and tabs may stand between tokens (DESIGN CHOICE, notes/assumptions/12.md). -/

namespace Sys2Proof.Machine

/-- A line of R89. -/
inductive AsmLine where
  | init
  | hardReset
  | setOrientation (ori : Orientation)
  | setPixel (x y color : Word)
  | setPixels (sx sy ex ey : Word) (colors : List Word)
  deriving DecidableEq, Repr

/-- The request of a line: unused operand fields are 0 (R89). -/
def AsmLine.instr : AsmLine → Instr
  | .init => .init 0 0 0 0
  | .hardReset => .hardReset 0 0 0 0
  | .setOrientation ori => .setOrientation ori 0 0 0 0
  | .setPixel x y color => .setPixel x y color 0
  | .setPixels sx sy ex ey _ => .setPixels sx sy ex ey

/-- The stream of a line: the colours as WORD tokens, then END (R89). -/
def AsmLine.stream : AsmLine → List Token
  | .init => []
  | .hardReset => []
  | .setOrientation _ => []
  | .setPixel _ _ _ => []
  | .setPixels _ _ _ _ colors => colors.map wordToken ++ [endToken]

/-- What the host presents for a line; it answers no Pull beyond the line's stream. -/
def AsmLine.hostOp (l : AsmLine) : HostOp := .request (encodeDesc l.instr) ⟨l.stream, .unanswered⟩

/-- A token of a line's text. -/
inductive AsmToken where
  | name (cs : List Char)
  | number (n : Nat)
  | comma
  | braceOpen
  | braceClose
  deriving DecidableEq, Repr

/-- The value of a digit in base 16. -/
def digitValue (c : Char) : Option Nat :=
  let n := c.toNat
  if 48 ≤ n ∧ n ≤ 57 then some (n - 48)
  else if 97 ≤ n ∧ n ≤ 102 then some (n - 87)
  else if 65 ≤ n ∧ n ≤ 70 then some (n - 55)
  else none

/-- Digits in a base, most significant first, onto a value already read. -/
def readDigits (base : Nat) : Nat → List Char → Option Nat
  | acc, [] => some acc
  | acc, c :: cs =>
    match digitValue c with
    | some v => if v < base then readDigits base (acc * base + v) cs else none
    | none => none

/-- A number in C hexadecimal or decimal (R89). A leading zero without x, which C would read as octal and R89 does not
settle, is read as decimal: 010 is ten (DESIGN CHOICE, notes/assumptions/12.md). -/
def readNumber : List Char → Option Nat
  | '0' :: 'x' :: d :: ds => readDigits 16 0 (d :: ds)
  | '0' :: 'X' :: d :: ds => readDigits 16 0 (d :: ds)
  | [] => none
  | cs => readDigits 10 0 cs

/-- A run of letters, digits and underscores: a number if it begins with a digit, a name otherwise. -/
def readRun (cs : List Char) : Option AsmToken :=
  match cs with
  | [] => none
  | c :: _ => if c.isDigit then (readNumber cs).map .number else some (.name cs)

/-- The run read so far (reversed) as at most one token in front of ts. -/
def closeRun (run : List Char) (ts : List AsmToken) : Option (List AsmToken) :=
  if run = [] then some ts else (readRun run.reverse).map (· :: ts)

/-- The tokens of a text; the first argument is the run being read, reversed. -/
def tokens : List Char → List Char → Option (List AsmToken)
  | run, [] => closeRun run []
  | run, c :: cs =>
    if c.isAlphanum || c == '_' then tokens (c :: run) cs
    else
      match tokens [] cs with
      | none => none
      | some ts =>
        if c == ' ' || c == '\t' then closeRun run ts
        else if c == ',' then closeRun run (.comma :: ts)
        else if c.toNat = 123 then closeRun run (.braceOpen :: ts)
        else if c.toNat = 125 then closeRun run (.braceClose :: ts)
        else none

/-- A number that fits 16 bits. -/
def word16 (n : Nat) : Option Word := if n < 65536 then some (BitVec.ofNat 16 n) else none

/-- The colours up to the closing brace, which ends the line. -/
def readColors : List AsmToken → Option (List Word)
  | [.number n, .braceClose] => (word16 n).map ([·])
  | .number n :: .comma :: ts =>
    match word16 n, readColors ts with
    | some w, some ws => some (w :: ws)
    | _, _ => none
  | _ => none

/-- The orientation of a name (R73, R89). -/
def readOrientation (cs : List Char) : Option Orientation :=
  if cs = "Portrait".toList then some .portrait
  else if cs = "Landscape".toList then some .landscape
  else if cs = "PortraitSwapped".toList then some .portraitSwapped
  else if cs = "LandscapeSwapped".toList then some .landscapeSwapped
  else none

/-- SET_PIXELS after its four coordinates. -/
def readStream (sx sy ex ey : Nat) (colors : Option (List Word)) : Option AsmLine :=
  match word16 sx, word16 sy, word16 ex, word16 ey, colors with
  | some sx, some sy, some ex, some ey, some cs => some (.setPixels sx sy ex ey cs)
  | _, _, _, _, _ => none

/-- The operands of a mnemonic (R89). -/
def readOperands (mnemonic : List Char) (ts : List AsmToken) : Option AsmLine :=
  if mnemonic = "INIT".toList then
    match ts with
    | [] => some .init
    | _ => none
  else if mnemonic = "HARD_RESET".toList then
    match ts with
    | [] => some .hardReset
    | _ => none
  else if mnemonic = "SET_ORIENTATION".toList then
    match ts with
    | [.name cs] => (readOrientation cs).map .setOrientation
    | _ => none
  else if mnemonic = "SET_PIXEL".toList then
    match ts with
    | [.number x, .comma, .number y, .comma, .number c] =>
      match word16 x, word16 y, word16 c with
      | some x, some y, some c => some (.setPixel x y c)
      | _, _, _ => none
    | _ => none
  else if mnemonic = "SET_PIXELS".toList then
    match ts with
    | [.number sx, .comma, .number sy, .comma, .number ex, .comma, .number ey, .comma, .braceOpen, .braceClose] =>
      readStream sx sy ex ey (some [])
    | .number sx :: .comma :: .number sy :: .comma :: .number ex :: .comma :: .number ey :: .comma :: .braceOpen :: cs =>
      readStream sx sy ex ey (readColors cs)
    | _ => none
  else none

/-- A line's text (R89). -/
def assembleLine (text : List Char) : Option AsmLine :=
  match tokens [] text with
  | some (.name m :: ts) => readOperands m ts
  | _ => none

end Sys2Proof.Machine
end

