-- ==== Sys2Proof/Machine/Runs.lean ====
section
/-! DEFINITION. Several steps at once, and the state a list of successful primitives leaves: the vocabulary in which a
statement follows an instruction to its end. -/

namespace Sys2Proof.Machine

/-- n steps of the block. -/
abbrev run (n : Nat) (s : State) : Outcome := Host.Core.run Sys2Proof.core n s

/-- The environment answers OK to every fallible primitive of ps (R12). -/
abbrev State.AnswersOk (ps : List Prim) (s : State) : Prop :=
  ∀ k, k < ps.countP Prim.fallible → s.answerAt k = .ok

/-- The state after the primitives ps, all OK. -/
def State.performedAll (ps : List Prim) (s : State) : State := ps.foldl (fun s p => s.performed p .ok) s

/-- The events of primitives that all completed with OK (R36). -/
def okEvents (ps : List Prim) : List Event := ps.map fun p => ⟨p, .ok⟩

/-- The primitives of a controller command's frame: its opcode and parameters (R81) in FRAME_CMD (R140). A request has
no frame. -/
def commandPrims (cfg : Config) : Instr → List Prim
  | .init _ _ _ _ => []
  | .hardReset _ _ _ _ => []
  | .setOrientation _ _ _ _ _ => []
  | .setPixel _ _ _ _ => []
  | .setPixels _ _ _ _ => []
  | .swreset => frameCmd cfg cfg.opc.swreset []
  | .slpout => frameCmd cfg cfg.opc.slpout []
  | .invoff => frameCmd cfg cfg.opc.invoff []
  | .madctl b => frameCmd cfg cfg.opc.madctl [b]
  | .colmod b => frameCmd cfg cfg.opc.colmod [b]
  | .invon => frameCmd cfg cfg.opc.invon []
  | .noron => frameCmd cfg cfg.opc.noron []
  | .dispon => frameCmd cfg cfg.opc.dispon []
  | .caset sx ex => frameCmd cfg cfg.opc.caset (be16 sx ++ be16 ex)
  | .raset sy ey => frameCmd cfg cfg.opc.raset (be16 sy ++ be16 ey)
  | .ramwr => frameCmd cfg cfg.opc.ramwr []

/-- The primitives of work made of primitives and commands; the register writes between them have none. A Pull has no
event and is not among them. -/
def workPrims (cfg : Config) : List MicroOp → List Prim
  | [] => []
  | .prim p :: r => p :: workPrims cfg r
  | .cmd i :: r => commandPrims cfg i ++ workPrims cfg r
  | .pull :: r => workPrims cfg r
  | .clearFill :: r => workPrims cfg r
  | .stagePixel :: r => workPrims cfg r
  | .flush :: r => workPrims cfg r
  | .markInit :: r => workPrims cfg r

/-- The primitives of HARD_RESET_SEQ (R103). -/
def hardResetPrims : List Prim :=
  [.pinRst .high, .wait 10, .pinRst .low, .wait 10, .pinRst .high, .wait 10]

/-- The primitives of a successful INIT, from the table of R105 and the frames of R140. -/
def initPrims (cfg : Config) : List Prim :=
  hardResetPrims
    ++ frameCmd cfg cfg.opc.swreset [] ++ [.wait 150000]
    ++ frameCmd cfg cfg.opc.slpout [] ++ [.wait 10000]
    ++ frameCmd cfg cfg.opc.invoff []
    ++ frameCmd cfg cfg.opc.madctl [0x00]
    ++ frameCmd cfg cfg.opc.colmod [0x55]
    ++ frameCmd cfg cfg.opc.invon [] ++ [.wait 10000]
    ++ frameCmd cfg cfg.opc.noron [] ++ [.wait 10000]
    ++ frameCmd cfg cfg.opc.dispon [] ++ [.wait 10000]

/-- The primitives of WINDOW and memory-write (R122, R123, R124). -/
def windowPrims (cfg : Config) (sx sy ex ey : Word) : List Prim :=
  frameCmd cfg cfg.opc.caset (be16 sx ++ be16 ex) ++ frameCmd cfg cfg.opc.raset (be16 sy ++ be16 ey)
    ++ frameCmd cfg cfg.opc.ramwr []

/-- The wire bytes of WINDOW and memory-write (R127). -/
def windowWire (cfg : Config) (sx sy ex ey : Word) : List (Ctx × Byte) :=
  [(.cmd, cfg.opc.caset), (.data, hiByte sx), (.data, loByte sx), (.data, hiByte ex), (.data, loByte ex),
   (.cmd, cfg.opc.raset), (.data, hiByte sy), (.data, loByte sy), (.data, hiByte ey), (.data, loByte ey),
   (.cmd, cfg.opc.ramwr)]

/-- The wire bytes of colours (R127). -/
def colorWire (cs : List Word) : List (Ctx × Byte) := cs.flatMap fun c => [(.data, hiByte c), (.data, loByte c)]

/-- The colours of a stream in groups of K, the last one partial: the contents of the data frames (R125). The first
argument bounds the number of groups. -/
def chunks (k : Nat) : Nat → List Word → List (List Word)
  | 0, _ => []
  | _ + 1, [] => []
  | n + 1, c :: cs => (c :: cs).take k :: chunks k n ((c :: cs).drop k)

/-- The primitives of the data frames of a colour stream (R125, R141). -/
def streamPrims (cfg : Config) (cs : List Word) : List Prim :=
  (chunks cfg.chunk cs.length cs).flatMap fun g => frameData cfg (g.flatMap be16)

end Sys2Proof.Machine
end

