-- ==== Sys2Proof/Machine/Wire.lean ====
section
/-! DEFINITION. What a trace says to the controller: the wire stream (spec/20_memory.md R52), what a failed transaction
may have delivered (spec/60_exceptions.md R176), the frames a reader finds in a wire stream (spec/30_encoding.md R79,
R80, R87), and the sum of the wait floors (spec/70_reset_and_hazards.md R198). -/

namespace Sys2Proof.Machine

/-- The bytes an event is certain to have carried (R52). -/
def Event.wire (e : Event) : List (Ctx × Byte) :=
  match e.prim, e.outcome with
  | .send c bytes, .ok => bytes.map fun b => (c, b)
  | .send _ _, .fail => []
  | .pinRst _, _ => []
  | .pinCs _, _ => []
  | .pinDc _, _ => []
  | .wait _, _ => []

/-- The wire stream of a trace (R52). -/
def wire (tr : List Event) : List (Ctx × Byte) := tr.flatMap Event.wire

/-- The bytes the controller received from an event, if a failed transaction delivered its first j bytes (R176; a j
beyond the list is its whole length). -/
def Event.delivered (j : Nat) (e : Event) : List (Ctx × Byte) :=
  match e.prim, e.outcome with
  | .send c bytes, .ok => bytes.map fun b => (c, b)
  | .send c bytes, .fail => (bytes.take j).map fun b => (c, b)
  | .pinRst _, _ => []
  | .pinCs _, _ => []
  | .pinDc _, _ => []
  | .wait _, _ => []

/-- What the controller received over a trace, where `j n` is the draw of R176 for event number n. The model places no
law on j: a claim about the controller is a claim for every j. -/
def received (j : Nat → Nat) (tr : List Event) : List (Ctx × Byte) :=
  tr.zipIdx.flatMap fun p => p.1.delivered (j p.2)

/-- The microseconds an event is certain to last (R62, R196). -/
def Event.floor (e : Event) : Nat :=
  match e.prim with
  | .wait us => us
  | .send _ _ => 0
  | .pinRst _ => 0
  | .pinCs _ => 0
  | .pinDc _ => 0

/-- The sum of a trace's wait floors (R198). -/
def waitFloor (tr : List Event) : Nat := (tr.map Event.floor).sum

/-- The event is a data transaction (R56). -/
def Event.isDataSend (e : Event) : Bool :=
  match e.prim with
  | .send .data _ => true
  | .send .cmd _ => false
  | .pinRst _ => false
  | .pinCs _ => false
  | .pinDc _ => false
  | .wait _ => false

/-- A frame of a wire stream (R79, R80). -/
inductive WireFrame where
  | command (i : Instr)
  | data (bytes : List Byte)
  deriving DecidableEq, Repr

/-- The data bytes up to the next command-context byte (R87). -/
def dataRun (w : List (Ctx × Byte)) : List Byte := (w.takeWhile fun p => p.1 == .data).map Prod.snd

/-- The frames of a wire stream: a command frame's length follows from its opcode, and a data frame, which follows
memory-write only (R80), ends at the next command-context byte (R87). Neighbouring data frames read as one. The first
argument bounds the number of command frames. -/
def readWire (o : Opcodes) : Nat → List (Ctx × Byte) → Option (List WireFrame)
  | _, [] => some []
  | 0, _ :: _ => none
  | _ + 1, (.data, _) :: _ => none
  | n + 1, (.cmd, op) :: rest =>
    match decodeFrame o (op :: dataRun rest) with
    | .error _ => none
    | .ok (i, left) =>
      match readWire o n (rest.dropWhile fun p => p.1 == .data) with
      | none => none
      | some fs =>
        if left = [] then some (.command i :: fs)
        else if i = .ramwr then some (.command i :: .data left :: fs)
        else none

end Sys2Proof.Machine
end

