-- ==== Sys2Proof/Safety.lean ====
section
/-! DEFINITION. What claims are stated about: the states a claim speaks of (spec/10_state.md R30), the host's duties
(spec/70_reset_and_hazards.md R191, R193), and the invariant of the block. -/

namespace Sys2Proof.Safety

open Sys2Proof.Machine

/-- R30: a state with REFUSED = true has no meaning for any claim. -/
abbrev Claimable (s : State) : Prop := s.refused = false

/-- The premise of a claim about what the controller shows (R132, R191). -/
abbrev DisplayDefined (s : State) : Prop := Claimable s ∧ s.ctlInit = true

/-- The host's duty `in_bounds` (R193). The block does not check it. -/
abbrev InBounds (cfg : Config) : Instr → Prop
  | .setPixels sx sy ex ey =>
    sx.toNat < cfg.sizeX ∧ ex.toNat < cfg.sizeX ∧ sy.toNat < cfg.sizeY ∧ ey.toNat < cfg.sizeY
  | .setPixel x y _ _ => x.toNat < cfg.sizeX ∧ y.toNat < cfg.sizeY
  | .init _ _ _ _ => True
  | .hardReset _ _ _ _ => True
  | .setOrientation _ _ _ _ _ => True
  | .swreset => True
  | .slpout => True
  | .invoff => True
  | .madctl _ => True
  | .colmod _ => True
  | .invon => True
  | .noron => True
  | .dispon => True
  | .caset _ _ => True
  | .raset _ _ => True
  | .ramwr => True

/-- The host's duty `termination` (R193): the stream holds an END token. -/
abbrev Terminates (stream : TokenStream) : Prop := ∃ t ∈ stream.tokens, tokenItem t = .endOfStream

/-- The host's duty `count` (R126, R193): the colours before the first END are as many as the window has pixels; colours
without end are no number. R126's area `(ex - sx + 1) * (ey - sy + 1)` is taken as a product of integers, so a window
reversed on one axis has a negative or zero area, which no stream but an empty one of area 0 meets, and one reversed on
both axes may have a positive one. DESIGN CHOICE (notes/assumptions/20.md): the spec gives a reversed window no area and
leaves its legality open (91_not_in_source.md N10). -/
abbrev CountMatches (sx sy ex ey : Word) (stream : TokenStream) : Prop :=
  (Terminates stream ∨ stream.after = .unanswered) ∧
  ((stream.tokens.takeWhile fun t => tokenItem t != .endOfStream).length : Int) =
    ((ex.toNat : Int) - sx.toNat + 1) * ((ey.toNat : Int) - sy.toNat + 1)

/-- A primitive the block may perform in a configuration: a command transaction carries one opcode (R88, R143), a data
transaction 1 byte, 4 bytes or 2n bytes with 1 ≤ n ≤ CFG_CHUNK (R55, R56), and the lines of R33 and R34 are driven only
where they exist. -/
def primShaped (cfg : Config) : Prim → Bool
  | .pinRst _ => true
  | .pinCs _ => cfg.variant == .discrete && cfg.hasCs
  | .pinDc _ => cfg.variant == .discrete
  | .send .cmd bs => cfg.opc.toList.any fun op => bs == [op]
  | .send .data bs =>
    bs.length == 1 || bs.length == 4 || (bs.length % 2 == 0 && 2 ≤ bs.length && bs.length ≤ 2 * cfg.chunk)
  | .wait us => 0 < us

/-- An event the block may have emitted: a WAIT is always OK (R36). -/
def eventShaped (cfg : Config) (e : Event) : Bool :=
  primShaped cfg e.prim && (e.prim.fallible || e.outcome == .ok)

/-- An entry of a request's work: only a well-formed controller command is ever issued (R88). -/
def workShaped (cfg : Config) : MicroOp → Bool
  | .prim p => primShaped cfg p
  | .cmd i => i.port == .bus && i.wf
  | .pull => true
  | .clearFill => true
  | .stagePixel => true
  | .flush => true
  | .markInit => true

/-- A request's work never overfills BUF and leaves it empty, where BUF holds `fill` words before it (R31, R125);
INIT's mark is its last entry (R104). -/
def workFits (chunk : Nat) : Nat → List MicroOp → Bool
  | fill, [] => fill == 0
  | fill, .prim _ :: r => workFits chunk fill r
  | fill, .cmd _ :: r => workFits chunk fill r
  | fill, .pull :: r => fill < chunk && r == []
  | _, .clearFill :: r => workFits chunk 0 r
  | _, .stagePixel :: r => workFits chunk 1 r
  | _, .flush :: r => workFits chunk 0 r
  | fill, .markInit :: r => fill == 0 && r == []

/-- The invariant of the block: what holds after construction and after every step. -/
structure Inv (s : State) : Prop where
  /-- The parameters are in their ranges (R7, R8). -/
  cfg : s.cfg.Wf
  /-- BUF is in canonical form and has no byte beyond 2*CFG_CHUNK - 1 (R31). -/
  bufWf : Memory.wf s.buf
  bufRange : ∀ c ∈ s.buf, c.1 < 2 * s.cfg.chunk
  /-- FILL ≤ CFG_CHUNK, and the words BUF holds have values (R31). -/
  fill : s.fill ≤ s.cfg.chunk
  staged : ∀ j, j < 2 * s.fill → (Memory.read s.buf j).isSome
  /-- An idle block has nothing left to do, and a busy one has (R26, R102). -/
  phase : s.phase = .idle ↔ s.todo = []
  /-- What is left to do is of the shapes the spec gives. -/
  work : ∀ m ∈ s.todo, workShaped s.cfg m
  fits : workFits s.cfg.chunk s.fill s.todo
  /-- Only INIT has CTL_INIT left to set (R35). -/
  mark : .markInit ∈ s.todo → reqOp s.req = 1#4
  /-- Every event of TRACE is of a shape the spec gives (R36, R55, R56, R143). -/
  trace : ∀ e ∈ s.trace, eventShaped s.cfg e
  /-- Lines that do not exist stay UNKNOWN (R33, R34). -/
  cs : ¬ (s.cfg.variant = .discrete ∧ s.cfg.hasCs = true) → s.csLvl = .unknown
  dc : s.cfg.variant ≠ .discrete → s.dcLvl = .unknown
  /-- REFUSED is set exactly when something was refused (R30, R173). -/
  refused : s.refused = true ↔ s.refusals ≠ []

end Sys2Proof.Safety
end

