-- ==== Sys2Proof/Certificates/Slice0/Obligations.lean ====
section
/-! DEFINITION. The statements for the provers, from the numbered rules of spec/. `run n s` is n steps of the block; one
step is one primitive (spec/00_scope.md R5, R12), so a statement about an instruction's whole effect follows the
instruction from `exec` to its last primitive. -/

open Sys2Proof Sys2Proof.Machine Sys2Proof.Safety

/-! ### Encoding and decoding -/

/-- A few descriptors and frames written out by hand from 30_encoding.md R70 to R86 and 95_test_vectors.md L2, reserved
codes among them. -/
def Obligations.WrittenOutWordsDecode : Prop :=
  decodeDesc 0x010000000000000000 = .ok (.init 0 0 0 0) ∧
  decodeDesc 0x021111222233334444 = .ok (.hardReset 0x1111 0x2222 0x3333 0x4444) ∧
  decodeDesc 0x330000000000000000 = .ok (.setOrientation .landscapeSwapped 0 0 0 0) ∧
  decodeDesc 0x0400050007001FABCD = .ok (.setPixel 5 7 0x001F 0xABCD) ∧
  decodeDesc 0x050001000200030004 = .ok (.setPixels 1 2 3 4) ∧
  decodeDesc 0x060000000000000000 = .error .reservedOp ∧
  decodeDesc 0x110000000000000000 = .error .reservedOri ∧
  decodeDesc 0x430000000000000000 = .error .reservedBits ∧
  decodeFrame Opcodes.default [0x01] = .ok (.swreset, []) ∧
  decodeFrame Opcodes.default [0x36, 0xC0] = .ok (.madctl 0xC0, []) ∧
  decodeFrame Opcodes.default [0x2A, 0x01, 0x02, 0x7F, 0x80] = .ok (.caset 0x0102 0x7F80, []) ∧
  decodeFrame Opcodes.default [0x2B, 0x00, 0x00, 0x00, 0x9F] = .ok (.raset 0 159, []) ∧
  decodeFrame Opcodes.default [0x2C, 0xF8] = .ok (.ramwr, [0xF8])

/-- R70 to R74: every legal request code with every operand value is read as its request, each operand from its own
16 bits of the descriptor. -/
def Obligations.DescriptorFieldsAreRead : Prop :=
  ∀ a b c d : Word,
    let desc : Nat → Desc := fun req =>
      BitVec.ofNat 72 ((((req * 65536 + a.toNat) * 65536 + b.toNat) * 65536 + c.toNat) * 65536 + d.toNat)
    decodeDesc (desc 0x01) = .ok (.init a b c d) ∧
    decodeDesc (desc 0x02) = .ok (.hardReset a b c d) ∧
    decodeDesc (desc 0x03) = .ok (.setOrientation .portrait a b c d) ∧
    decodeDesc (desc 0x13) = .ok (.setOrientation .landscape a b c d) ∧
    decodeDesc (desc 0x23) = .ok (.setOrientation .portraitSwapped a b c d) ∧
    decodeDesc (desc 0x33) = .ok (.setOrientation .landscapeSwapped a b c d) ∧
    decodeDesc (desc 0x04) = .ok (.setPixel a b c d) ∧
    decodeDesc (desc 0x05) = .ok (.setPixels a b c d)

/-- R76: a request code is legal exactly when RSV = 0, OP is 1 to 5, and ORI = 0 unless OP = 3; every other descriptor an
idle block is presented with is refused, emits no event and writes no state of the spec but REFUSED. (`hostOps` and
`refusals` are the model's own: the request is used up and the reason recorded.) -/
def Obligations.LegalRequestCodes : Prop :=
  ∀ desc : Desc,
    let req := desc.toNat / 2 ^ 64
    let legal := req / 64 = 0 ∧ (1 ≤ req % 16 ∧ req % 16 ≤ 5) ∧ (req / 16 % 4 = 0 ∨ req % 16 = 3)
    ((∃ i, decodeDesc desc = .ok i) ↔ legal) ∧
    (¬ legal → ∀ (s : State) (stream : TokenStream) (rest : List HostOp),
      s.phase = .idle → s.hostOps = .request desc stream :: rest →
      step s = .next { s with
        hostOps := rest, refused := true, refusals := s.refusals ++ [.reservedRequest] })

/-- Decoding an encoded well-formed instruction gives it back, all sixteen of them, for every assignment of distinct
opcodes (R8), with whatever bytes follow. -/
def Obligations.DecodeOfEncode : Prop :=
  ∀ (o : Opcodes) (i : Instr) (rest : List Byte),
    o.Distinct → i.wf = true → decode o i.port (encode o i ++ rest) = .ok (i, rest)

/-- The other direction for requests: a descriptor that decodes is the encoding of what it decodes to, so no bit of a
descriptor is dropped (R70, R75: the operand fields a request ignores are kept too). -/
def Obligations.EncodeOfDecodedDescriptor : Prop :=
  ∀ (d : Desc) (i : Instr), decodeDesc d = .ok i → encodeDesc i = d ∧ i.port = .request

/-- R10: hi and lo split a word, most significant byte first. -/
def Obligations.BigEndianSplit : Prop :=
  ∀ v : Word, (hiByte v).toNat = v.toNat / 256 ∧ (loByte v).toNat = v.toNat % 256 ∧ be16 v = [hiByte v, loByte v]

/-- R78: bit 16 of a token is END, and otherwise bits 15..0 are the colour. -/
def Obligations.TokensAreRead : Prop :=
  ∀ t : Token,
    (t.toNat < 65536 → tokenItem t = .word (BitVec.ofNat 16 t.toNat)) ∧
    (65536 ≤ t.toNat → tokenItem t = .endOfStream)

/-- R89, R74: what the host presents for each of the five lines. Its descriptor decodes to the line's request, the operands
in R74's order and the unused fields 0; the stream of SET_PIXELS is its colours as WORD tokens, then END, and the other
four lines bring no token. -/
def Obligations.AssembledLineIsItsRequest : Prop :=
  let presents : AsmLine → Instr → List StreamItem → Prop := fun l i items =>
    ∃ desc stream, l.hostOp = .request desc stream ∧ decodeDesc desc = .ok i ∧ stream.after = .unanswered ∧
      stream.tokens.map tokenItem = items
  presents .init (.init 0 0 0 0) [] ∧
  presents .hardReset (.hardReset 0 0 0 0) [] ∧
  (∀ ori, presents (.setOrientation ori) (.setOrientation ori 0 0 0 0) []) ∧
  (∀ x y color, presents (.setPixel x y color) (.setPixel x y color 0) []) ∧
  ∀ sx sy ex ey cs, presents (.setPixels sx sy ex ey cs) (.setPixels sx sy ex ey) (cs.map .word ++ [.endOfStream])

/-! ### One step -/

/-- R37, R101: an idle block that is presented with a descriptor of the request i executes i, with the descriptor used up
and its stream to answer Pulls from. -/
def Obligations.StepExecutesThePresentedRequest : Prop :=
  ∀ (s : State) (desc : Desc) (stream : TokenStream) (rest : List HostOp) (i : Instr),
    s.phase = .idle → s.hostOps = .request desc stream :: rest → decodeDesc desc = .ok i →
    step s = exec i { s with hostOps := rest, stream := stream }

/-- R27, R140: a busy block whose work goes on with a controller command executes that command, with the work after it
still to do. -/
def Obligations.StepExecutesTheIssuedCommand : Prop :=
  ∀ (s : State) (i : Instr) (rest : List MicroOp),
    s.phase = .busy → s.todo = .cmd i :: rest → step s = exec i { s with todo := rest }

/-- R26, R101, R181: a busy block accepts nothing. Each of the five requests leaves it as it is, and no step of it uses up
what the host presents. -/
def Obligations.BusyBlockAcceptsNothing : Prop :=
  ∀ s : State, s.phase = .busy →
    (∀ i : Instr, i.port = .request → exec i s = .next s) ∧ (∀ t, step s = .next t → t.hostOps = s.hostOps)

/-- R37, R182: with nothing presented an idle block waits; R125: a busy block waits for the answer to a Pull. Nothing
changes. -/
def Obligations.TheBlockWaits : Prop :=
  ∀ s : State,
    (s.phase = .idle → s.hostOps = [] → step s = .next s) ∧
    (∀ rest, s.phase = .busy → s.todo = .pull :: rest → s.stream = ⟨[], .unanswered⟩ → step s = .next s)

/-- R5, R36, R61: over every state, a step appends at most one event to TRACE and changes no earlier one. STEP counts the
event's primitive; that it counts a failed one too is the model's reading of R27's "completed" (DEDUCED,
notes/assumptions/10.md). -/
def Obligations.StepAppendsAtMostOneEvent : Prop :=
  ∀ s t : State, step s = .next t →
    t.trace = s.trace ∨ (s.phase = .busy ∧ t.stepCount = s.stepCount + 1 ∧ ∃ e, t.trace = s.trace ++ [e])

/-- R27: a step leaves STEP, counts one primitive, or, from an idle block, starts at 0. (A failing primitive counts too:
the model's reading, DEDUCED, notes/assumptions/10.md.) -/
def Obligations.StepCountsPrimitives : Prop :=
  ∀ s t : State, step s = .next t →
    t.stepCount = s.stepCount ∨ (s.phase = .busy ∧ t.stepCount = s.stepCount + 1) ∨
      (s.phase = .idle ∧ t.stepCount = 0)

/-- R20: construction stores the parameters, and no step writes them. -/
def Obligations.ConfigurationIsReadOnly : Prop :=
  (∀ cfg, (State.construct cfg).cfg = cfg) ∧ ∀ s t : State, step s = .next t → t.cfg = s.cfg

/-- R24: the operand latches are written together, by acceptance only, and with the descriptor's five fields. -/
def Obligations.LatchesAreWrittenAtAcceptanceOnly : Prop :=
  ∀ s t : State, step s = .next t →
    (t.req = s.req ∧ t.a = s.a ∧ t.b = s.b ∧ t.c = s.c ∧ t.d = s.d) ∨
    (s.phase = .idle ∧ ∃ desc stream rest, s.hostOps = .request desc stream :: rest ∧
      t.req = descReq desc ∧ t.a = descA desc ∧ t.b = descB desc ∧ t.c = descC desc ∧ t.d = descD desc)

/-- R30, R173: REFUSED is false after construction and, once set, stays set; a step that sets it records a reason, emits
no event and writes no RESULT. -/
def Obligations.RefusedIsSticky : Prop :=
  (∀ cfg, (State.construct cfg).refused = false) ∧
  ∀ s t : State, step s = .next t →
    (s.refused = true → t.refused = true) ∧
    (s.refused = false → t.refused = true →
      t.trace = s.trace ∧ t.result = s.result ∧ ∃ r, t.refusals = s.refusals ++ [r])

/-- R28, R173: the host's read of RESULT gives the last completed request's result, and is refused before the first
completion. -/
def Obligations.ResultIsReadAfterCompletionOnly : Prop :=
  ∀ (s : State) (rest : List HostOp), s.phase = .idle → s.hostOps = .readResult :: rest →
    (∀ r, s.result = some r → step s = .next { s with hostOps := rest, responses := s.responses ++ [r] }) ∧
    (s.result = none → step s = .next { s with
      hostOps := rest, refused := true, refusals := s.refusals ++ [.resultReadBeforeCompletion] })

/-! ### Construction -/

/-- R100, R26, R27, R28, R30 to R36: the values the spec gives after construction. (The latches hold no value there; the 0
the model gives them, notes/assumptions/4.md, is not claimed.) -/
def Obligations.ConstructionValues : Prop :=
  ∀ cfg, let s := State.construct cfg
    s.cfg = cfg ∧ s.phase = .idle ∧ s.stepCount = 0 ∧ s.result = none ∧ s.refused = false ∧ s.fill = 0 ∧
    s.rstLvl = .unknown ∧ s.csLvl = .unknown ∧ s.dcLvl = .unknown ∧ s.ctlInit = false ∧ s.trace = [] ∧
    ∀ j, Memory.read s.buf j = none

/-! ### Acceptance (R101) -/

/-- R101, R120, R122, R128: an idle block accepts SET_ORIENTATION, SET_PIXEL and SET_PIXELS whatever its state and the
operands. The descriptor's fields are latched, PHASE is BUSY, STEP and FILL are 0, the frames the request's pseudocode
begins with are to do, and nothing else changes. -/
def Obligations.DrawingRequestsAreAccepted : Prop :=
  ∀ (s : State) (a b c d : Word), s.phase = .idle →
    (∀ ori, exec (.setOrientation ori a b c d) s = .next { s with
      req := reqByte (oriCode ori) 3#4, a := a, b := b, c := c, d := d, phase := .busy, stepCount := 0, fill := 0,
      todo := [.cmd (.madctl (oriByte ori))] }) ∧
    exec (.setPixel a b c d) s = .next { s with
      req := 0x04, a := a, b := b, c := c, d := d, phase := .busy, stepCount := 0, fill := 0,
      todo := [.cmd (.caset a a), .cmd (.raset b b), .cmd .ramwr, .stagePixel, .flush] } ∧
    exec (.setPixels a b c d) s = .next { s with
      req := 0x05, a := a, b := b, c := c, d := d, phase := .busy, stepCount := 0, fill := 0,
      todo := [.cmd (.caset a c), .cmd (.raset b d), .cmd .ramwr, .clearFill, .pull] }

/-- R101, R103, R104: an idle block with a Delay Provider accepts HARD_RESET and INIT; CTL_INIT is cleared and the first of
the reset-line drives is to do. -/
def Obligations.TimedRequestsAreAccepted : Prop :=
  ∀ (s : State) (a b c d : Word), s.phase = .idle → s.cfg.hasDelay = true →
    (∃ rest, exec (.hardReset a b c d) s = .next { s with
      req := 0x02, a := a, b := b, c := c, d := d, phase := .busy, stepCount := 0, fill := 0, ctlInit := false,
      todo := .prim (.pinRst .high) :: rest }) ∧
    (∃ rest, exec (.init a b c d) s = .next { s with
      req := 0x01, a := a, b := b, c := c, d := d, phase := .busy, stepCount := 0, fill := 0, ctlInit := false,
      todo := .prim (.pinRst .high) :: rest })

/-- R112, R173: without a Delay Provider HARD_RESET and INIT emit no event, write no RESULT and set REFUSED. (What else the
refused state holds is "of no account" and is not claimed.) -/
def Obligations.NoDelayProviderRefuses : Prop :=
  ∀ (s : State) (a b c d : Word) (i : Instr), s.phase = .idle → s.cfg.hasDelay = false →
    (i = .hardReset a b c d ∨ i = .init a b c d) →
    ∃ t, exec i s = .next t ∧ t.refused = true ∧ t.refusals = s.refusals ++ [.noDelayProvider] ∧
      t.trace = s.trace ∧ t.result = s.result ∧ t.responses = s.responses

/-! ### Requests run to their end -/

/-- R103, R111: HARD_RESET, its three drives answered OK. Six primitives later the reset line is HIGH, RESULT is OK and the
six events stand in TRACE, each wait its own; CTL_INIT is false (R110). The frame is the list of R190: nothing else of
the spec's state changes but the latches and FILL. -/
def Obligations.HardResetRunsToItsEnd : Prop :=
  ∀ (s : State) (a b c d : Word), s.phase = .idle → s.cfg.hasDelay = true → s.AnswersOk hardResetPrims →
    ∃ t u, exec (.hardReset a b c d) s = .next t ∧ run 6 t = .next u ∧
      u.trace = s.trace ++
        [⟨.pinRst .high, .ok⟩, ⟨.wait 10, .ok⟩, ⟨.pinRst .low, .ok⟩, ⟨.wait 10, .ok⟩, ⟨.pinRst .high, .ok⟩,
         ⟨.wait 10, .ok⟩] ∧
      u.result = some .ok ∧ u.responses = s.responses ++ [.ok] ∧ u.phase = .idle ∧ u.stepCount = 6 ∧
      u.rstLvl = .driven .high ∧ u.ctlInit = false ∧
      u.req = 0x02 ∧ u.a = a ∧ u.b = b ∧ u.c = c ∧ u.d = d ∧ u.fill = 0 ∧
      u.cfg = s.cfg ∧ u.refused = s.refused ∧ u.csLvl = s.csLvl ∧ u.dcLvl = s.dcLvl ∧
      ∀ j, Memory.read u.buf j = Memory.read s.buf j

/-- R104, R105, R35, R27: INIT, all its primitives answered OK. Its events are the hard reset's and then the frames and
waits of the table of R105, in order; at the end RESULT is OK, CTL_INIT is true and the reset line is HIGH. -/
def Obligations.InitRunsToItsEnd : Prop :=
  ∀ (s : State) (a b c d : Word), s.phase = .idle → s.cfg.hasDelay = true → s.AnswersOk (initPrims s.cfg) →
    ∃ t u, exec (.init a b c d) s = .next t ∧ run (initPrims s.cfg).length t = .next u ∧
      u.trace = s.trace ++ okEvents (initPrims s.cfg) ∧
      u.result = some .ok ∧ u.responses = s.responses ++ [.ok] ∧ u.phase = .idle ∧
      u.stepCount = (initPrims s.cfg).length ∧ u.ctlInit = true ∧ u.rstLvl = .driven .high ∧
      u.csLvl = (if s.cfg.variant = .discrete ∧ s.cfg.hasCs = true then .driven .desel else s.csLvl) ∧
      u.dcLvl = (if s.cfg.variant = .discrete then .driven .cmd else s.dcLvl) ∧
      u.req = 0x01 ∧ u.a = a ∧ u.b = b ∧ u.c = c ∧ u.d = d ∧ u.fill = 0 ∧
      u.cfg = s.cfg ∧ u.refused = s.refused ∧ ∀ j, Memory.read u.buf j = Memory.read s.buf j

/-- R107: a successful INIT emits exactly eight command frames in the order and with the parameter bytes of R105, with no
other command frame and no data frame (read from its wire stream by opcode, R87); it carries these ten bytes, and appends
21 events under UNIFIED, 31 under DISCRETE without chip-select and 47 with it. -/
def Obligations.InitEmitsTheEightCommands : Prop :=
  ∀ (s : State) (a b c d : Word), s.phase = .idle → s.cfg.hasDelay = true → s.cfg.opc.Distinct →
    s.AnswersOk (initPrims s.cfg) →
    ∃ t u es, exec (.init a b c d) s = .next t ∧ run (initPrims s.cfg).length t = .next u ∧ u.result = some .ok ∧
      u.phase = .idle ∧ u.trace = s.trace ++ es ∧
      wire es = [(.cmd, s.cfg.opc.swreset), (.cmd, s.cfg.opc.slpout), (.cmd, s.cfg.opc.invoff),
        (.cmd, s.cfg.opc.madctl), (.data, 0x00), (.cmd, s.cfg.opc.colmod), (.data, 0x55), (.cmd, s.cfg.opc.invon),
        (.cmd, s.cfg.opc.noron), (.cmd, s.cfg.opc.dispon)] ∧
      readWire s.cfg.opc 8 (wire es) = some [.command .swreset, .command .slpout, .command .invoff,
        .command (.madctl 0x00), .command (.colmod 0x55), .command .invon, .command .noron, .command .dispon] ∧
      es.length = (match s.cfg.variant with
        | .unified => 21
        | .discrete => if s.cfg.hasCs then 47 else 31)

/-- R106, R177, R178, R179: INIT whose first n primitives complete and whose primitive number n fails. The failing event is
the request's last, no later primitive runs, RESULT is the failing primitive's error, and CTL_INIT is false; FILL is 0 (R175). The last clause, STEP = n + 1, counts the failing
primitive, which is the model's reading of R27 (DEDUCED, notes/assumptions/10.md). -/
def Obligations.InitAbortsAtTheFailingPrimitive : Prop :=
  ∀ (s : State) (a b c d : Word) (ps : List Prim) (p : Prim) (qs : List Prim), s.phase = .idle →
    s.cfg.hasDelay = true → initPrims s.cfg = ps ++ p :: qs → p.fallible = true → s.AnswersOk ps →
    s.answerAt (ps.countP Prim.fallible) = .fail →
    ∃ t u, exec (.init a b c d) s = .next t ∧ run (ps.length + 1) t = .next u ∧
      u.trace = s.trace ++ okEvents ps ++ [⟨p, .fail⟩] ∧ u.phase = .idle ∧ u.todo = [] ∧ u.ctlInit = false ∧
      u.fill = 0 ∧
      u.result = some (match p with
        | .send _ _ => .errTransport
        | .pinRst _ => .errPin
        | .pinCs _ => .errPin
        | .pinDc _ => .errPin
        | .wait _ => .ok) ∧
      u.responses.length = s.responses.length + 1 ∧ u.stepCount = ps.length + 1

/-- R120, R121, W1: SET_ORIENTATION, its frame answered OK, issues exactly one MADCTL frame whose parameter is the
orientation's byte; RESULT is OK and CTL_INIT is not written. The four bytes are spelled out. -/
def Obligations.SetOrientationRunsToItsEnd : Prop :=
  ∀ (s : State) (ori : Orientation) (a b c d : Word), s.phase = .idle →
    let byte : Byte := match ori with
      | .portrait => 0x00
      | .landscape => 0x60
      | .portraitSwapped => 0xC0
      | .landscapeSwapped => 0xA0
    let ps := frameCmd s.cfg s.cfg.opc.madctl [byte]
    s.AnswersOk ps →
    ∃ t u, exec (.setOrientation ori a b c d) s = .next t ∧ run ps.length t = .next u ∧
      u.trace = s.trace ++ okEvents ps ∧ u.result = some .ok ∧ u.responses = s.responses ++ [.ok] ∧
      u.phase = .idle ∧ u.stepCount = ps.length ∧ u.ctlInit = s.ctlInit ∧ u.rstLvl = s.rstLvl ∧
      u.csLvl = (if s.cfg.variant = .discrete ∧ s.cfg.hasCs = true then .driven .desel else s.csLvl) ∧
      u.dcLvl = (if s.cfg.variant = .discrete then .driven .data else s.dcLvl) ∧
      u.req = reqByte (oriCode ori) 3#4 ∧ u.a = a ∧ u.b = b ∧ u.c = c ∧ u.d = d ∧
      u.fill = 0 ∧ u.cfg = s.cfg ∧ u.refused = s.refused ∧ ∀ j, Memory.read u.buf j = Memory.read s.buf j

/-- R128: SET_PIXEL, all its primitives answered OK: the window x, y, x, y, memory-write, and one data frame with the
colour; BUF[0] and BUF[1] hold the colour's bytes and no other byte of BUF changes; no token is pulled. -/
def Obligations.SetPixelRunsToItsEnd : Prop :=
  ∀ (s : State) (x y color d : Word), s.phase = .idle → 1 ≤ s.cfg.chunk →
    let ps := windowPrims s.cfg x y x y ++ frameData s.cfg (be16 color)
    s.AnswersOk ps →
    ∃ t u, exec (.setPixel x y color d) s = .next t ∧ run ps.length t = .next u ∧
      u.trace = s.trace ++ okEvents ps ∧ u.result = some .ok ∧ u.responses = s.responses ++ [.ok] ∧
      u.phase = .idle ∧ u.stepCount = ps.length ∧ u.fill = 0 ∧
      Memory.read u.buf 0 = some (hiByte color) ∧ Memory.read u.buf 1 = some (loByte color) ∧
      (∀ j, 2 ≤ j → Memory.read u.buf j = Memory.read s.buf j) ∧
      u.req = 0x04 ∧ u.a = x ∧ u.b = y ∧ u.c = color ∧ u.d = d ∧
      u.ctlInit = s.ctlInit ∧ u.rstLvl = s.rstLvl ∧ u.stream = s.stream ∧ u.cfg = s.cfg ∧ u.refused = s.refused ∧
      u.csLvl = (if s.cfg.variant = .discrete ∧ s.cfg.hasCs = true then .driven .desel else s.csLvl) ∧
      u.dcLvl = (if s.cfg.variant = .discrete then .driven .data else s.dcLvl)

/-- R122, R125, R27: SET_PIXELS with a stream of any colours and an END token, all its primitives answered OK. The colours
go out in groups of CFG_CHUNK, the last one partial; STEP counts the events and one Pull for every token; the tokens
after END are not pulled; no byte of BUF beyond the staging area changes. -/
def Obligations.SetPixelsRunsToItsEnd : Prop :=
  ∀ (s : State) (sx sy ex ey : Word) (cs : List Word) (e : Token) (rest : List Token), s.phase = .idle →
    1 ≤ s.cfg.chunk → s.stream.tokens = cs.map wordToken ++ e :: rest → tokenItem e = .endOfStream →
    let ps := windowPrims s.cfg sx sy ex ey ++ streamPrims s.cfg cs
    s.AnswersOk ps →
    ∃ t u, exec (.setPixels sx sy ex ey) s = .next t ∧ run (ps.length + cs.length + 1) t = .next u ∧
      u.trace = s.trace ++ okEvents ps ∧ u.result = some .ok ∧ u.responses = s.responses ++ [.ok] ∧
      u.phase = .idle ∧ u.stepCount = ps.length + cs.length + 1 ∧ u.fill = 0 ∧ u.stream = ⟨rest, s.stream.after⟩ ∧
      u.req = 0x05 ∧ u.a = sx ∧ u.b = sy ∧ u.c = ex ∧ u.d = ey ∧
      u.ctlInit = s.ctlInit ∧ u.rstLvl = s.rstLvl ∧ u.cfg = s.cfg ∧ u.refused = s.refused ∧
      u.csLvl = (if s.cfg.variant = .discrete ∧ s.cfg.hasCs = true then .driven .desel else s.csLvl) ∧
      u.dcLvl = (if s.cfg.variant = .discrete then .driven (if cs = [] then .cmd else .data) else s.dcLvl) ∧
      ∀ j, 2 * s.cfg.chunk ≤ j → Memory.read u.buf j = Memory.read s.buf j

/-- R127: chunking does not change the wire stream. For a SET_PIXELS that completes with RESULT = OK after a stream of N
colours, the wire stream it appends is the window's eleven bytes and then each colour's two, whatever CFG_CHUNK,
CFG_VARIANT and CFG_HAS_CS are; the number of data frames is ceil(N / CFG_CHUNK). -/
def Obligations.ChunkingDoesNotChangeTheWire : Prop :=
  ∀ (s : State) (sx sy ex ey : Word) (cs : List Word) (e : Token) (rest : List Token), s.phase = .idle →
    1 ≤ s.cfg.chunk → s.stream.tokens = cs.map wordToken ++ e :: rest → tokenItem e = .endOfStream →
    s.AnswersOk (windowPrims s.cfg sx sy ex ey ++ streamPrims s.cfg cs) →
    ∃ t n u es, exec (.setPixels sx sy ex ey) s = .next t ∧ run n t = .next u ∧ u.phase = .idle ∧
      u.result = some .ok ∧ u.trace = s.trace ++ es ∧
      wire es = [(.cmd, s.cfg.opc.caset), (.data, hiByte sx), (.data, loByte sx), (.data, hiByte ex),
        (.data, loByte ex), (.cmd, s.cfg.opc.raset), (.data, hiByte sy), (.data, loByte sy), (.data, hiByte ey),
        (.data, loByte ey), (.cmd, s.cfg.opc.ramwr)] ++ cs.flatMap (fun c => [(.data, hiByte c), (.data, loByte c)]) ∧
      es.countP Event.isDataSend = 2 + (cs.length + s.cfg.chunk - 1) / s.cfg.chunk

/-- R130: an empty colour stream sends the CASET, RASET and RAMWR frames and then no data frame; RESULT is OK. -/
def Obligations.EmptyStreamSendsNoDataFrame : Prop :=
  ∀ (s : State) (sx sy ex ey : Word) (e : Token) (rest : List Token), s.phase = .idle →
    s.stream.tokens = e :: rest → tokenItem e = .endOfStream → 1 ≤ s.cfg.chunk →
    s.AnswersOk (windowPrims s.cfg sx sy ex ey) →
    ∃ t u, exec (.setPixels sx sy ex ey) s = .next t ∧
      run ((windowPrims s.cfg sx sy ex ey).length + 1) t = .next u ∧ u.phase = .idle ∧ u.result = some .ok ∧
      u.trace = s.trace ++ okEvents (
        frameCmd s.cfg s.cfg.opc.caset [hiByte sx, loByte sx, hiByte ex, loByte ex] ++
        frameCmd s.cfg s.cfg.opc.raset [hiByte sy, loByte sy, hiByte ey, loByte ey] ++
        frameCmd s.cfg s.cfg.opc.ramwr [])

/-- R128, R90, W4: SET_PIXEL x, y, c and SET_PIXELS x, y, x, y with the one colour c append the identical events, from any
two states of one configuration whose environments answer OK. -/
def Obligations.SetPixelIsSetPixelsOfOneColour : Prop :=
  ∀ (s s' : State) (x y c d : Word) (rest : List Token), s.phase = .idle → s'.phase = .idle → s'.cfg = s.cfg →
    1 ≤ s.cfg.chunk → s'.stream.tokens = wordToken c :: endToken :: rest →
    s.AnswersOk (windowPrims s.cfg x y x y ++ frameData s.cfg (be16 c)) →
    s'.AnswersOk (windowPrims s.cfg x y x y ++ frameData s.cfg (be16 c)) →
    ∃ t t' n n' u u' es, exec (.setPixel x y c d) s = .next t ∧ exec (.setPixels x y x y) s' = .next t' ∧
      run n t = .next u ∧ run n' t' = .next u' ∧ u.phase = .idle ∧ u'.phase = .idle ∧
      u.result = some .ok ∧ u'.result = some .ok ∧ u.trace = s.trace ++ es ∧ u'.trace = s'.trace ++ es

/-! ### Frames and controller commands -/

/-- R140, R141: the primitives of a command frame and of a data frame, spelled out for each of the three busses. -/
def Obligations.FramesOfTheThreeBusses : Prop :=
  ∀ (cfg : Config) (op p : Byte) (ps : List Byte), cfg.hasCs = true →
    let unified := { cfg with variant := .unified }
    let withCs := { cfg with variant := .discrete }
    let noCs := { cfg with variant := .discrete, hasCs := false }
    frameCmd unified op [] = [.send .cmd [op]] ∧
    frameCmd unified op (p :: ps) = [.send .cmd [op], .send .data (p :: ps)] ∧
    frameCmd withCs op [] = [.pinCs .sel, .pinDc .cmd, .send .cmd [op], .pinCs .desel] ∧
    frameCmd withCs op (p :: ps) =
      [.pinCs .sel, .pinDc .cmd, .send .cmd [op], .pinDc .data, .send .data (p :: ps), .pinCs .desel] ∧
    frameCmd noCs op [] = [.pinDc .cmd, .send .cmd [op]] ∧
    frameCmd noCs op (p :: ps) = [.pinDc .cmd, .send .cmd [op], .pinDc .data, .send .data (p :: ps)] ∧
    frameData unified (p :: ps) = [.send .data (p :: ps)] ∧
    frameData withCs (p :: ps) = [.pinCs .sel, .pinDc .data, .send .data (p :: ps), .pinCs .desel] ∧
    frameData noCs (p :: ps) = [.pinDc .data, .send .data (p :: ps)]

/-- R81, R140, R145 to R155: each of the eleven controller commands, issued by a busy block and its frame answered OK. The
command's execution answers a next state, and by the frame's last primitive its events are exactly the frame of its opcode
and parameters; under DISCRETE the device is deselected and the context is that of the last transaction; the reset line,
the latches, the configuration and the stream are not touched. -/
def Obligations.CommandsRunTheirFrames : Prop :=
  ∀ (s : State) (i : Instr) (op : Byte) (params : List Byte) (b : Byte) (sx ex sy ey : Word) (rest : List MicroOp),
    Safety.Inv s → s.phase = .busy → s.todo = .cmd i :: rest →
    (i, op, params) ∈ [
      (.swreset, s.cfg.opc.swreset, []), (.slpout, s.cfg.opc.slpout, []), (.invoff, s.cfg.opc.invoff, []),
      (.madctl b, s.cfg.opc.madctl, [b]), (.colmod b, s.cfg.opc.colmod, [b]), (.invon, s.cfg.opc.invon, []),
      (.noron, s.cfg.opc.noron, []), (.dispon, s.cfg.opc.dispon, []),
      (.caset sx ex, s.cfg.opc.caset, [hiByte sx, loByte sx, hiByte ex, loByte ex]),
      (.raset sy ey, s.cfg.opc.raset, [hiByte sy, loByte sy, hiByte ey, loByte ey]),
      (.ramwr, s.cfg.opc.ramwr, [])] →
    let ps := frameCmd s.cfg op params
    s.AnswersOk ps →
    ∃ t u, exec i { s with todo := rest } = .next t ∧ run (ps.length - 1) t = .next u ∧
      u.trace = s.trace ++ okEvents ps ∧ u.stepCount = s.stepCount + ps.length ∧
      u.csLvl = (if s.cfg.variant = .discrete ∧ s.cfg.hasCs = true then .driven .desel else s.csLvl) ∧
      u.dcLvl = (if s.cfg.variant = .discrete then .driven (if params = [] then .cmd else .data) else s.dcLvl) ∧
      u.rstLvl = s.rstLvl ∧ u.cfg = s.cfg ∧ u.stream = s.stream ∧ u.refused = s.refused ∧
      u.req = s.req ∧ u.a = s.a ∧ u.b = s.b ∧ u.c = s.c ∧ u.d = s.d

/-- R140, R175: a controller command whose first primitive fails: the request is aborted at once, with the frame's first
event the last of TRACE; the line that was driven, if one was, is UNKNOWN. Two clauses are the model's own: it is said of
every state, an idle block and bytes the block never sends among them (DESIGN CHOICE, notes/assumptions/14.md; the spec
issues well-formed commands of a busy block only), and STEP counts the failing primitive (DEDUCED,
notes/assumptions/10.md). -/
def Obligations.CommandAbortsAtItsFirstPrimitive : Prop :=
  ∀ (s : State) (i : Instr), i.port = .bus → s.nextAnswer = .fail →
    ∃ t p ps, commandPrims s.cfg i = p :: ps ∧ exec i s = .next t ∧ t.trace = s.trace ++ [⟨p, .fail⟩] ∧
      t.phase = .idle ∧ t.ctlInit = false ∧ t.fill = 0 ∧ t.stepCount = s.stepCount + 1 ∧
      t.result = some (if s.cfg.variant = .unified then .errTransport else .errPin) ∧
      t.csLvl = (if s.cfg.variant = .discrete ∧ s.cfg.hasCs = true then .unknown else s.csLvl) ∧
      t.dcLvl = (if s.cfg.variant = .discrete ∧ s.cfg.hasCs = false then .unknown else s.dcLvl) ∧
      t.req = s.req ∧ t.a = s.a ∧ t.b = s.b ∧ t.c = s.c ∧ t.d = s.d ∧
      t.cfg = s.cfg ∧ t.rstLvl = s.rstLvl ∧ t.refused = s.refused ∧ ∀ j, Memory.read t.buf j = Memory.read s.buf j

/-- The frame of the eleven controller commands: one primitive of STEP, and the configuration, the latches, the reset line,
REFUSED and the inputs are unchanged, and under UNIFIED every line is. RESULT, FILL and CTL_INIT are unchanged unless the
request ends or a write of them stands behind the command; no byte of BUF changes but bytes 0 and 1 where SET_PIXEL's
staging stands behind it. Three things are the model's own: that exec of a command performs its frame's first primitive,
that it does so in every state, an idle block and bytes the block never sends among them (both DESIGN CHOICE,
notes/assumptions/14.md), and that STEP counts a failed primitive too (DEDUCED, notes/assumptions/10.md). -/
def Obligations.CommandFrame : Prop :=
  ∀ (s t : State) (i : Instr), i.port = .bus → exec i s = .next t →
    t.stepCount = s.stepCount + 1 ∧ t.cfg = s.cfg ∧ t.req = s.req ∧ t.a = s.a ∧ t.b = s.b ∧ t.c = s.c ∧ t.d = s.d ∧
    t.rstLvl = s.rstLvl ∧ t.refused = s.refused ∧ t.refusals = s.refusals ∧ t.hostOps = s.hostOps ∧
    t.stream = s.stream ∧ (∃ e, t.trace = s.trace ++ [e]) ∧
    (s.phase = .busy → t.phase = .busy → t.result = s.result ∧ t.responses = s.responses ∧
      (.markInit ∉ s.todo → t.ctlInit = s.ctlInit) ∧
      (.clearFill ∉ s.todo → .stagePixel ∉ s.todo → t.fill = s.fill)) ∧
    (s.cfg.variant = .unified → t.csLvl = s.csLvl ∧ t.dcLvl = s.dcLvl) ∧
    ∀ j, .stagePixel ∉ s.todo ∨ 2 ≤ j → Memory.read t.buf j = Memory.read s.buf j

/-! ### Errors -/

/-- R175, R171, R172, R32 to R34: a primitive of a busy block that fails is performed, and every step that performs a
failing primitive is the abort. RESULT is the kind of the primitive and is what the host's call returns, CTL_INIT is
cleared, the staged colours are discarded, PHASE is IDLE and nothing is left to do; the failing event is the last; the
line that failed, if one did, is UNKNOWN, and every other line, BUF, the latches and the configuration are as they were:
no deselect is performed. -/
def Obligations.FailingPrimitiveAborts : Prop :=
  (∀ (s : State) (p : Prim) (rest : List MicroOp), s.phase = .busy → s.todo = .prim p :: rest → p.fallible = true →
    s.nextAnswer = .fail → ∃ t, step s = .next t ∧ t.trace = s.trace ++ [⟨p, .fail⟩]) ∧
  ∀ (s t : State) (p : Prim), s.phase = .busy → step s = .next t → t.trace = s.trace ++ [⟨p, .fail⟩] →
    t.result = some (match p with
      | .send _ _ => .errTransport
      | .pinRst _ => .errPin
      | .pinCs _ => .errPin
      | .pinDc _ => .errPin
      | .wait _ => .ok) ∧
    (∃ r, t.result = some r ∧ t.responses = s.responses ++ [r]) ∧
    t.ctlInit = false ∧ t.fill = 0 ∧ t.phase = .idle ∧ t.todo = [] ∧
    t.rstLvl = (match p with
      | .pinRst _ => .unknown
      | .pinCs _ => s.rstLvl
      | .pinDc _ => s.rstLvl
      | .send _ _ => s.rstLvl
      | .wait _ => s.rstLvl) ∧
    t.csLvl = (match p with
      | .pinCs _ => .unknown
      | .pinRst _ => s.csLvl
      | .pinDc _ => s.csLvl
      | .send _ _ => s.csLvl
      | .wait _ => s.csLvl) ∧
    t.dcLvl = (match p with
      | .pinDc _ => .unknown
      | .pinRst _ => s.dcLvl
      | .pinCs _ => s.dcLvl
      | .send _ _ => s.dcLvl
      | .wait _ => s.dcLvl) ∧
    t.cfg = s.cfg ∧ t.req = s.req ∧ t.a = s.a ∧ t.b = s.b ∧ t.c = s.c ∧ t.d = s.d ∧ t.refused = s.refused ∧
    t.stream = s.stream ∧ ∀ j, Memory.read t.buf j = Memory.read s.buf j

/-- R176, R52, R57: for every draw j, what the controller received of a trace that ends in a failed transaction is what it
received before and some prefix of the transaction's bytes; no prefix is ruled out, from the empty one to all of them; and
the wire stream does not count the failed transaction. -/
def Obligations.FailedTransactionDeliversAPrefix : Prop :=
  ∀ (j : Nat → Nat) (tr : List Event) (c : Ctx) (bytes : List Byte),
    wire (tr ++ [⟨.send c bytes, .fail⟩]) = wire tr ∧
    (∃ pre post, bytes = pre ++ post ∧
      received j (tr ++ [⟨.send c bytes, .fail⟩]) = received j tr ++ pre.map fun b => (c, b)) ∧
    ∀ pre post, bytes = pre ++ post → ∃ j',
      received j' (tr ++ [⟨.send c bytes, .fail⟩]) = received j tr ++ pre.map fun b => (c, b)

/-! ### The stream phase -/

/-- R125: one answered Pull. A word is staged as `BUF[2*FILL] = hi(c)`, `BUF[2*FILL+1] = lo(c)`, and no other byte of BUF
changes; the buffer is flushed when it holds CFG_CHUNK words and else the next Pull comes; no event is emitted and STEP
counts the Pull. -/
def Obligations.PullStagesAWord : Prop :=
  ∀ (s : State) (c : Word) (rest : TokenStream), Safety.Inv s → s.phase = .busy → s.todo = [.pull] →
    s.stream.pull = some (wordToken c, rest) →
    ∃ t, step s = .next t ∧ t.fill = s.fill + 1 ∧ t.stream = rest ∧ t.stepCount = s.stepCount + 1 ∧
      t.trace = s.trace ∧ t.phase = .busy ∧ t.ctlInit = s.ctlInit ∧ t.result = s.result ∧
      Memory.read t.buf (2 * s.fill) = some (hiByte c) ∧ Memory.read t.buf (2 * s.fill + 1) = some (loByte c) ∧
      (∀ j, j ≠ 2 * s.fill → j ≠ 2 * s.fill + 1 → Memory.read t.buf j = Memory.read s.buf j) ∧
      (s.fill + 1 < s.cfg.chunk → t.todo = [.pull]) ∧
      (s.fill + 1 = s.cfg.chunk → ∃ bytes, bytes.length = 2 * s.cfg.chunk ∧
        (∀ j, j < 2 * s.cfg.chunk → bytes[j]? = Memory.read t.buf j) ∧
        t.todo = (frameData s.cfg bytes).map .prim ++ [.clearFill, .pull])

/-- R125, 93_implementation_defined.md I17: a SET_PIXELS whose host supplies WORD tokens without end, all primitives
answered OK, is sent on and on. For every q that takes in the listed colours, after q buffers of CFG_CHUNK colours the data
frames of exactly those colours stand in TRACE, nothing has completed, and the block is at its next Pull. The colours after
the listed ones are the free values `Config.freeColour` (notes/assumptions/13.md): the statement holds whatever they are. -/
def Obligations.EndlessStreamIsSentOn : Prop :=
  ∀ (s : State) (sx sy ex ey : Word) (cs : List Word) (n q : Nat), s.phase = .idle → 1 ≤ s.cfg.chunk →
    s.stream = ⟨cs.map wordToken, .endless n⟩ → cs.length ≤ q * s.cfg.chunk →
    let more := q * s.cfg.chunk - cs.length
    let sent := cs ++ (List.range more).map fun i => Config.freeColour (n + i)
    let ps := windowPrims s.cfg sx sy ex ey ++ streamPrims s.cfg sent
    s.AnswersOk ps →
    ∃ t u, exec (.setPixels sx sy ex ey) s = .next t ∧ run (ps.length + q * s.cfg.chunk) t = .next u ∧
      u.trace = s.trace ++ okEvents ps ∧ u.phase = .busy ∧ u.todo = [.pull] ∧ u.fill = 0 ∧
      u.result = s.result ∧ u.responses = s.responses ∧ u.stepCount = ps.length + q * s.cfg.chunk ∧
      u.stream = ⟨[], .endless (n + more)⟩ ∧ u.ctlInit = s.ctlInit ∧ u.rstLvl = s.rstLvl ∧
      u.cfg = s.cfg ∧ u.refused = s.refused ∧ u.req = 0x05 ∧ u.a = sx ∧ u.b = sy ∧ u.c = ex ∧ u.d = ey

/-- R125: without an END token a SET_PIXELS does not complete. Where the work left ends in a Pull and the stream lists no END,
every step whose primitive, if it has one, is answered OK leaves the block BUSY in that same situation, with no RESULT
written and nothing returned: a host that goes silent and one that never ends both leave the request running. -/
def Obligations.WithoutEndNoCompletion : Prop :=
  ∀ s t : State, Safety.Inv s → s.phase = .busy → s.todo.getLast? = some .pull →
    (∀ x ∈ s.stream.tokens, tokenItem x ≠ .endOfStream) → s.nextAnswer = .ok → step s = .next t →
    t.phase = .busy ∧ t.todo.getLast? = some .pull ∧ (∀ x ∈ t.stream.tokens, tokenItem x ≠ .endOfStream) ∧
    (t.stream.after = .unanswered ↔ s.stream.after = .unanswered) ∧ t.result = s.result ∧ t.responses = s.responses ∧
    (t.trace = s.trace ∨ ∃ p, t.trace = s.trace ++ [⟨p, .ok⟩])

/-! ### Whole-machine rules -/

/-- R35, R109, R110: CTL_INIT rises only with the last step of an INIT, which completes with RESULT = OK. -/
def Obligations.CtlInitRisesWithInitOnly : Prop :=
  ∀ s t : State, Safety.Inv s → step s = .next t → s.ctlInit = false → t.ctlInit = true →
    s.phase = .busy ∧ reqOp s.req = 1#4 ∧ t.phase = .idle ∧ t.result = some .ok

/-- R192, R109: an abort of any request leaves CTL_INIT false, and a step that ends a request with an error is an abort. -/
def Obligations.ErrorClearsCtlInit : Prop :=
  ∀ s t : State, step s = .next t → s.phase = .busy → t.phase = .idle → t.result ≠ some .ok →
    t.ctlInit = false ∧ t.fill = 0 ∧ ∃ p, t.trace = s.trace ++ [⟨p, .fail⟩]

/-- The invariant holds after construction with any parameters in their ranges. -/
def Obligations.InvAfterConstruction : Prop := ∀ cfg : Config, cfg.Wf → Safety.Inv (State.construct cfg)

/-- Every step keeps the invariant: BUF stays in canonical form and inside its 2*CFG_CHUNK bytes, FILL never exceeds
CFG_CHUNK, the words it counts have values, an idle block has nothing left to do, every event is of a shape the spec
gives, and the lines that do not exist stay UNKNOWN. -/
def Obligations.StepKeepsInv : Prop := ∀ s t : State, Safety.Inv s → step s = .next t → Safety.Inv t

/-- No ordinary data ends a run: from every state of the invariant the step answers a next state. -/
def Obligations.StepNeverStops : Prop := ∀ s : State, Safety.Inv s → ∃ t, step s = .next t

/-- R143: every `Send(CMD, bytes)` the block performs has one byte, which is one of the eleven opcodes (R88): parameters
and pixel data go in data context. And (R55, R56) every data transaction has 1, 4 or 2n bytes with 1 ≤ n ≤ CFG_CHUNK. In
every run, from construction with any parameters in their ranges, whatever the host
presents and the environment answers. -/
def Obligations.TransactionsAreShaped : Prop :=
  ∀ (cfg : Config) (ops : List HostOp) (answers : List Answer) (n : Nat) (u : State), cfg.Wf →
    run n { State.construct cfg with hostOps := ops, answers := answers } = .next u →
    ∀ c bytes o, ⟨.send c bytes, o⟩ ∈ u.trace →
      (c = .cmd → bytes.length = 1 ∧ ∃ op ∈ cfg.opc.toList, bytes = [op]) ∧
      (c = .data → bytes.length = 1 ∨ bytes.length = 4 ∨
        ∃ k, 1 ≤ k ∧ k ≤ cfg.chunk ∧ bytes.length = 2 * k)

/-- R21, R129, R174: the screen size is read by no step. Two states that differ in it alone take the same step. -/
def Obligations.ScreenSizeIsNotRead : Prop :=
  ∀ (s : State) (x y : Nat),
    let resized : State → State := fun s => { s with cfg := { s.cfg with sizeX := x, sizeY := y } }
    ∀ t, step s = .next t → step (resized s) = .next (resized t)

/-- R35, R132: CTL_INIT changes no event. Two states that differ in it alone take the same step, up to CTL_INIT: drawing
before initialisation is not detected. -/
def Obligations.CtlInitIsNotRead : Prop :=
  ∀ (s t : State) (v : Bool), step s = .next t →
    ∃ w, step { s with ctlInit := v } = .next { t with ctlInit := w }

/-- R75: an operand field a request does not use is latched and read by no rule. An idle block is presented with two
descriptors that differ in such fields only: A to D of INIT, HARD_RESET and SET_ORIENTATION, or D of SET_PIXEL. The step
that takes the one gives the state the other gives, up to those latches; and so does every run, however long. -/
def Obligations.UnusedOperandFieldsAreIgnored : Prop :=
  ∀ (s : State) (stream : TokenStream) (rest : List HostOp) (desc : Desc) (x y z w : Word), s.phase = .idle →
    let presented : Desc → State := fun d => { s with hostOps := .request d stream :: rest }
    (descReq desc ∈ ([0x01, 0x02, 0x03, 0x13, 0x23, 0x33] : List Byte) →
      let other := presented (descOf (descReq desc) x y z w)
      (∀ t, step (presented desc) = .next t → step other = .next { t with a := x, b := y, c := z, d := w }) ∧
      ∀ n u, run (n + 1) (presented desc) = .next u →
        ∃ a b c d, run (n + 1) other = .next { u with a := a, b := b, c := c, d := d }) ∧
    (descReq desc = 0x04 →
      let other := presented (descOf 0x04 (descA desc) (descB desc) (descC desc) w)
      (∀ t, step (presented desc) = .next t → step other = .next { t with d := w }) ∧
      ∀ n u, run (n + 1) (presented desc) = .next u → ∃ d, run (n + 1) other = .next { u with d := d })

/-- R198, R103, R105, R111: the floors of the waits that the five requests append. The events of a HARD_RESET that is answered
OK total 30 us and those of an INIT 190030 us; those of SET_ORIENTATION, SET_PIXEL and SET_PIXELS total 0: they contain no
wait, and neither does any frame. -/
def Obligations.WaitFloorsTotal : Prop :=
  ∀ (s : State) (a b c d : Word), s.phase = .idle →
    let appends : Instr → Nat → Prop := fun i us =>
      ∃ t n u es, exec i s = .next t ∧ run n t = .next u ∧ u.phase = .idle ∧ u.result = some .ok ∧
        u.responses = s.responses ++ [.ok] ∧ u.trace = s.trace ++ es ∧ waitFloor es = us
    (s.cfg.hasDelay = true → s.AnswersOk hardResetPrims → appends (.hardReset a b c d) 30) ∧
    (s.cfg.hasDelay = true → s.AnswersOk (initPrims s.cfg) → appends (.init a b c d) 190030) ∧
    (∀ ori, s.AnswersOk (frameCmd s.cfg s.cfg.opc.madctl [oriByte ori]) → appends (.setOrientation ori a b c d) 0) ∧
    (1 ≤ s.cfg.chunk → s.AnswersOk (windowPrims s.cfg a b a b ++ frameData s.cfg (be16 c)) →
      appends (.setPixel a b c d) 0) ∧
    (∀ (cs : List Word) (e : Token) (rest : List Token), 1 ≤ s.cfg.chunk →
      s.stream.tokens = cs.map wordToken ++ e :: rest → tokenItem e = .endOfStream →
      s.AnswersOk (windowPrims s.cfg a b c d ++ streamPrims s.cfg cs) → appends (.setPixels a b c d) 0) ∧
    ∀ (op : Byte) (ps : List Byte),
      waitFloor (okEvents (frameCmd s.cfg op ps)) = 0 ∧ waitFloor (okEvents (frameData s.cfg ps)) = 0
end

