-- ==== Sys2Proof/Laws/Bits.lean ====
section
/-! SUPPORT. The byte-order and field helpers as numbers, and that splitting and joining undo each other. -/

namespace Sys2Proof

/-- Joining as a number. -/
theorem append_toNat {n m : Nat} (x : BitVec n) (y : BitVec m) : (x ++ y).toNat = x.toNat * 2 ^ m + y.toNat := by
  rw [BitVec.toNat_append, ← Nat.shiftLeft_add_eq_or_of_lt y.isLt, Nat.shiftLeft_eq]

theorem wordOf_toNat (h l : Byte) : (wordOf h l).toNat = h.toNat * 256 + l.toNat := by
  have e : (wordOf h l).toNat = (h ++ l : BitVec (8 + 8)).toNat := rfl
  rw [e, append_toNat]; norm_num

@[simp] theorem wordOf_hiByte_loByte (w : Word) : wordOf (hiByte w) (loByte w) = w := by
  apply BitVec.eq_of_toNat_eq
  rw [wordOf_toNat]
  simp only [hiByte, loByte, BitVec.extractLsb'_toNat, Nat.shiftRight_eq_div_pow]
  omega

@[simp] theorem hiByte_wordOf (h l : Byte) : hiByte (wordOf h l) = h := by
  apply BitVec.eq_of_toNat_eq
  simp only [hiByte, BitVec.extractLsb'_toNat, wordOf_toNat, Nat.shiftRight_eq_div_pow]
  omega

@[simp] theorem loByte_wordOf (h l : Byte) : loByte (wordOf h l) = l := by
  apply BitVec.eq_of_toNat_eq
  simp only [loByte, BitVec.extractLsb'_toNat, wordOf_toNat, Nat.shiftRight_zero]
  omega

/-- A descriptor as a number: its five fields, REQ uppermost (R70). -/
theorem descOf_toNat (q : Byte) (a b c d : Word) : (descOf q a b c d).toNat =
    (((q.toNat * 65536 + a.toNat) * 65536 + b.toNat) * 65536 + c.toNat) * 65536 + d.toNat := by
  have e : (descOf q a b c d).toNat = ((((q ++ a : BitVec (8 + 16)) ++ b : BitVec (8 + 16 + 16)) ++ c :
    BitVec (8 + 16 + 16 + 16)) ++ d : BitVec (8 + 16 + 16 + 16 + 16)).toNat := rfl
  rw [e]
  simp only [append_toNat]
  omega

theorem descReq_toNat (d : Desc) : (descReq d).toNat = d.toNat / 2 ^ 64 := by
  simp only [descReq, BitVec.extractLsb'_toNat, Nat.shiftRight_eq_div_pow]
  omega

theorem descA_toNat (d : Desc) : (descA d).toNat = d.toNat / 2 ^ 48 % 65536 := by
  simp only [descA, BitVec.extractLsb'_toNat, Nat.shiftRight_eq_div_pow]

theorem descB_toNat (d : Desc) : (descB d).toNat = d.toNat / 2 ^ 32 % 65536 := by
  simp only [descB, BitVec.extractLsb'_toNat, Nat.shiftRight_eq_div_pow]

theorem descC_toNat (d : Desc) : (descC d).toNat = d.toNat / 2 ^ 16 % 65536 := by
  simp only [descC, BitVec.extractLsb'_toNat, Nat.shiftRight_eq_div_pow]

theorem descD_toNat (d : Desc) : (descD d).toNat = d.toNat % 65536 := by
  simp only [descD, BitVec.extractLsb'_toNat, Nat.shiftRight_zero]

@[simp] theorem descReq_descOf (q : Byte) (a b c d : Word) : descReq (descOf q a b c d) = q := by
  apply BitVec.eq_of_toNat_eq; rw [descReq_toNat, descOf_toNat]; omega

@[simp] theorem descA_descOf (q : Byte) (a b c d : Word) : descA (descOf q a b c d) = a := by
  apply BitVec.eq_of_toNat_eq; rw [descA_toNat, descOf_toNat]; omega

@[simp] theorem descB_descOf (q : Byte) (a b c d : Word) : descB (descOf q a b c d) = b := by
  apply BitVec.eq_of_toNat_eq; rw [descB_toNat, descOf_toNat]; omega

@[simp] theorem descC_descOf (q : Byte) (a b c d : Word) : descC (descOf q a b c d) = c := by
  apply BitVec.eq_of_toNat_eq; rw [descC_toNat, descOf_toNat]; omega

@[simp] theorem descD_descOf (q : Byte) (a b c d : Word) : descD (descOf q a b c d) = d := by
  apply BitVec.eq_of_toNat_eq; rw [descD_toNat, descOf_toNat]; omega

/-- A descriptor is its fields. -/
@[simp] theorem descOf_fields (d : Desc) : descOf (descReq d) (descA d) (descB d) (descC d) (descD d) = d := by
  apply BitVec.eq_of_toNat_eq
  rw [descOf_toNat, descReq_toNat, descA_toNat, descB_toNat, descC_toNat, descD_toNat]
  omega

@[simp] theorem tokenItem_wordToken (c : Word) : tokenItem (wordToken c) = .word c := by
  have e : (wordToken c).toNat = (0#1 ++ c : BitVec (1 + 16)).toNat := rfl
  have n : (wordToken c).toNat = c.toNat := by rw [e, BitVec.toNat_append]; simp
  have h : ¬ (wordToken c).extractLsb' 16 1 = 1#1 := by
    intro h
    have := congrArg BitVec.toNat h
    simp only [BitVec.extractLsb'_toNat, Nat.shiftRight_eq_div_pow, n] at this
    have := c.isLt
    simp at *
    omega
  rw [tokenItem, if_neg h]
  congr 1
  apply BitVec.eq_of_toNat_eq
  simp only [BitVec.extractLsb'_toNat, Nat.shiftRight_zero, n]
  omega

@[simp] theorem tokenItem_endToken : tokenItem endToken = .endOfStream := by decide

@[simp] theorem oriOfCode_oriCode (o : Orientation) : oriOfCode (oriCode o) = o := by cases o <;> decide

theorem reqByte_toNat (o : BitVec 2) (p : BitVec 4) : (reqByte o p).toNat = o.toNat * 16 + p.toNat := by
  have e : (reqByte o p).toNat = ((0#2 ++ o : BitVec (2 + 2)) ++ p : BitVec (2 + 2 + 4)).toNat := rfl
  rw [e]
  rw [append_toNat, append_toNat]; simp

theorem reqOp_toNat (r : Byte) : (reqOp r).toNat = r.toNat % 16 := by
  simp only [reqOp, BitVec.extractLsb'_toNat, Nat.shiftRight_zero]

theorem reqOri_toNat (r : Byte) : (reqOri r).toNat = r.toNat / 16 % 4 := by
  simp only [reqOri, BitVec.extractLsb'_toNat, Nat.shiftRight_eq_div_pow]

theorem reqRsv_toNat (r : Byte) : (reqRsv r).toNat = r.toNat / 64 := by
  simp only [reqRsv, BitVec.extractLsb'_toNat, Nat.shiftRight_eq_div_pow]
  omega

@[simp] theorem reqOp_reqByte (o : BitVec 2) (p : BitVec 4) : reqOp (reqByte o p) = p := by
  apply BitVec.eq_of_toNat_eq; rw [reqOp_toNat, reqByte_toNat]; omega

@[simp] theorem reqOri_reqByte (o : BitVec 2) (p : BitVec 4) : reqOri (reqByte o p) = o := by
  apply BitVec.eq_of_toNat_eq; rw [reqOri_toNat, reqByte_toNat]; omega

@[simp] theorem reqRsv_reqByte (o : BitVec 2) (p : BitVec 4) : reqRsv (reqByte o p) = 0#2 := by
  apply BitVec.eq_of_toNat_eq; rw [reqRsv_toNat, reqByte_toNat]; simp; omega

end Sys2Proof
end

