-- ==== Sys2Proof/Laws/Memory.lean ====
section
/-! SUPPORT. The laws of BUF: reading after writing, and that writing keeps the canonical form. -/

namespace Sys2Proof.Machine.Memory

@[simp] theorem read_write_same (m : List Host.Cell) (j : Nat) (v : Byte) : read (write m j v) j = some v := by
  induction m with
  | nil => simp [write, read]
  | cons c m ih =>
    obtain ⟨k, w⟩ := c
    unfold write
    split
    · simp [read]
    · split
      · simp [read]
      · rw [read, if_neg (by omega), ih]

theorem read_write_other (m : List Host.Cell) {j k : Nat} (v : Byte) (h : k ≠ j) :
    read (write m j v) k = read m k := by
  induction m with
  | nil => simp [write, read, h.symm]
  | cons c m ih =>
    obtain ⟨i, w⟩ := c
    unfold write
    split
    · simp [read, h.symm]
    · split
      · subst_vars
        simp [read, h.symm]
      · simp only [read, ih]

/-- The indices after a write are those before it and the one written. -/
theorem mem_write {m : List Host.Cell} {j : Nat} {v : Byte} {c : Host.Cell} (h : c ∈ write m j v) :
    c.1 = j ∨ c ∈ m := by
  induction m with
  | nil => simp_all [write]
  | cons a m ih =>
    obtain ⟨k, w⟩ := a
    unfold write at h
    split at h
    · simp only [List.mem_cons] at h ⊢
      obtain rfl | h := h
      · exact .inl rfl
      · exact .inr h
    · split at h
      · simp only [List.mem_cons] at h ⊢
        obtain rfl | h := h
        · exact .inl rfl
        · exact .inr (.inr h)
      · simp only [List.mem_cons] at h ⊢
        obtain rfl | h := h
        · exact .inr (.inl rfl)
        · exact (ih h).imp id .inr

theorem write_wf {m : List Host.Cell} (j : Nat) (v : Byte) (h : wf m) : wf (write m j v) := by
  induction m with
  | nil => simp [write, wf]
  | cons a m ih =>
    obtain ⟨k, w⟩ := a
    have hm := List.pairwise_cons.mp h
    unfold write
    split
    · refine List.pairwise_cons.mpr ⟨fun c hc => ?_, h⟩
      obtain rfl | hc := List.mem_cons.mp hc
      · assumption
      · exact lt_trans ‹j < k› (hm.1 c hc)
    · split
      · subst_vars
        exact List.pairwise_cons.mpr hm
      · refine List.pairwise_cons.mpr ⟨fun c hc => ?_, ih hm.2⟩
        obtain hc | hc := mem_write hc
        · rw [hc]; omega
        · exact hm.1 c hc

/-- A range of bytes that hold values reads as a list of its length. -/
theorem readRange_of_read {m : List Host.Cell} (n j : Nat) (h : ∀ i, j ≤ i → i < j + n → (read m i).isSome) :
    ∃ vs, readRange m j n = some vs ∧ vs.length = n := by
  induction n generalizing j with
  | zero => exact ⟨[], rfl, rfl⟩
  | succ n ih =>
    obtain ⟨vs, hvs, hn⟩ := ih (j + 1) fun i hi hi' => h i (by omega) (by omega)
    obtain ⟨v, hv⟩ := Option.isSome_iff_exists.mp (h j le_rfl (by omega))
    exact ⟨v :: vs, by simp [readRange, hv, hvs], by simp [hn]⟩

/-- All that a read of a range says: it answers the bytes of the range, each of which has a value. -/
theorem readRange_iff (m : List Host.Cell) (n : Nat) : ∀ j vs,
    readRange m j n = some vs ↔ vs.length = n ∧ ∀ i, i < n → vs[i]? = read m (j + i) := by
  induction n with
  | zero => intro j vs; simp [readRange]
  | succ n ih =>
    intro j vs
    simp only [readRange]
    constructor
    · intro h
      split at h
      · rename_i v vs' h1 h2
        cases h
        obtain ⟨a, b⟩ := (ih _ _).mp h2
        refine ⟨by simp [a], fun i hi => ?_⟩
        cases i with
        | zero => simp [h1]
        | succ i => simp [b i (by omega)]; congr 1; omega
      · cases h
    · rintro ⟨h1, h2⟩
      rcases vs with _ | ⟨v, vs⟩
      · simp at h1
      · have e1 : read m j = some v := by simpa using (h2 0 (by omega)).symm
        have e2 : readRange m (j + 1) n = some vs := (ih _ _).mpr ⟨by simpa using h1, fun i hi => by
          have := h2 (i + 1) (by omega); simp at this; rw [this]; congr 1; omega⟩
        simp [e1, e2]

end Sys2Proof.Machine.Memory
end

