-- ==== Sys2Proof/Laws/State.lean ====
section
/-! SUPPORT. What each named update of the state does to each field: one lemma per field per update, so that no proof
unfolds an update. -/

namespace Sys2Proof.Machine

/-! ### State.complete -/

@[simp] theorem State.complete_cfg (s : State) : s.complete.cfg = s.cfg := rfl
@[simp] theorem State.complete_req (s : State) : s.complete.req = s.req := rfl
@[simp] theorem State.complete_a (s : State) : s.complete.a = s.a := rfl
@[simp] theorem State.complete_b (s : State) : s.complete.b = s.b := rfl
@[simp] theorem State.complete_c (s : State) : s.complete.c = s.c := rfl
@[simp] theorem State.complete_d (s : State) : s.complete.d = s.d := rfl
@[simp] theorem State.complete_phase (s : State) : s.complete.phase = .idle := rfl
@[simp] theorem State.complete_stepCount (s : State) : s.complete.stepCount = s.stepCount := rfl
@[simp] theorem State.complete_result (s : State) : s.complete.result = some .ok := rfl
@[simp] theorem State.complete_refused (s : State) : s.complete.refused = s.refused := rfl
@[simp] theorem State.complete_buf (s : State) : s.complete.buf = s.buf := rfl
@[simp] theorem State.complete_fill (s : State) : s.complete.fill = s.fill := rfl
@[simp] theorem State.complete_rstLvl (s : State) : s.complete.rstLvl = s.rstLvl := rfl
@[simp] theorem State.complete_csLvl (s : State) : s.complete.csLvl = s.csLvl := rfl
@[simp] theorem State.complete_dcLvl (s : State) : s.complete.dcLvl = s.dcLvl := rfl
@[simp] theorem State.complete_ctlInit (s : State) : s.complete.ctlInit = s.ctlInit := rfl
@[simp] theorem State.complete_trace (s : State) : s.complete.trace = s.trace := rfl
@[simp] theorem State.complete_todo (s : State) : s.complete.todo = [] := rfl
@[simp] theorem State.complete_hostOps (s : State) : s.complete.hostOps = s.hostOps := rfl
@[simp] theorem State.complete_stream (s : State) : s.complete.stream = s.stream := rfl
@[simp] theorem State.complete_answers (s : State) : s.complete.answers = s.answers := rfl
@[simp] theorem State.complete_draws (s : State) : s.complete.draws = s.draws := rfl
@[simp] theorem State.complete_responses (s : State) : s.complete.responses = s.responses ++ [.ok] := rfl
@[simp] theorem State.complete_refusals (s : State) : s.complete.refusals = s.refusals := rfl

/-! ### State.abort -/

@[simp] theorem State.abort_cfg (e : ErrorKind) (s : State) : (s.abort e).cfg = s.cfg := rfl
@[simp] theorem State.abort_req (e : ErrorKind) (s : State) : (s.abort e).req = s.req := rfl
@[simp] theorem State.abort_a (e : ErrorKind) (s : State) : (s.abort e).a = s.a := rfl
@[simp] theorem State.abort_b (e : ErrorKind) (s : State) : (s.abort e).b = s.b := rfl
@[simp] theorem State.abort_c (e : ErrorKind) (s : State) : (s.abort e).c = s.c := rfl
@[simp] theorem State.abort_d (e : ErrorKind) (s : State) : (s.abort e).d = s.d := rfl
@[simp] theorem State.abort_phase (e : ErrorKind) (s : State) : (s.abort e).phase = .idle := rfl
@[simp] theorem State.abort_stepCount (e : ErrorKind) (s : State) : (s.abort e).stepCount = s.stepCount := rfl
@[simp] theorem State.abort_result (e : ErrorKind) (s : State) : (s.abort e).result = some e.result := rfl
@[simp] theorem State.abort_refused (e : ErrorKind) (s : State) : (s.abort e).refused = s.refused := rfl
@[simp] theorem State.abort_buf (e : ErrorKind) (s : State) : (s.abort e).buf = s.buf := rfl
@[simp] theorem State.abort_fill (e : ErrorKind) (s : State) : (s.abort e).fill = 0 := rfl
@[simp] theorem State.abort_rstLvl (e : ErrorKind) (s : State) : (s.abort e).rstLvl = s.rstLvl := rfl
@[simp] theorem State.abort_csLvl (e : ErrorKind) (s : State) : (s.abort e).csLvl = s.csLvl := rfl
@[simp] theorem State.abort_dcLvl (e : ErrorKind) (s : State) : (s.abort e).dcLvl = s.dcLvl := rfl
@[simp] theorem State.abort_ctlInit (e : ErrorKind) (s : State) : (s.abort e).ctlInit = false := rfl
@[simp] theorem State.abort_trace (e : ErrorKind) (s : State) : (s.abort e).trace = s.trace := rfl
@[simp] theorem State.abort_todo (e : ErrorKind) (s : State) : (s.abort e).todo = [] := rfl
@[simp] theorem State.abort_hostOps (e : ErrorKind) (s : State) : (s.abort e).hostOps = s.hostOps := rfl
@[simp] theorem State.abort_stream (e : ErrorKind) (s : State) : (s.abort e).stream = s.stream := rfl
@[simp] theorem State.abort_answers (e : ErrorKind) (s : State) : (s.abort e).answers = s.answers := rfl
@[simp] theorem State.abort_draws (e : ErrorKind) (s : State) : (s.abort e).draws = s.draws := rfl
@[simp] theorem State.abort_responses (e : ErrorKind) (s : State) : (s.abort e).responses = s.responses ++ [e.result] := rfl
@[simp] theorem State.abort_refusals (e : ErrorKind) (s : State) : (s.abort e).refusals = s.refusals := rfl

/-! ### State.refuse -/

@[simp] theorem State.refuse_cfg (r : RefuseReason) (s : State) : (s.refuse r).cfg = s.cfg := rfl
@[simp] theorem State.refuse_req (r : RefuseReason) (s : State) : (s.refuse r).req = s.req := rfl
@[simp] theorem State.refuse_a (r : RefuseReason) (s : State) : (s.refuse r).a = s.a := rfl
@[simp] theorem State.refuse_b (r : RefuseReason) (s : State) : (s.refuse r).b = s.b := rfl
@[simp] theorem State.refuse_c (r : RefuseReason) (s : State) : (s.refuse r).c = s.c := rfl
@[simp] theorem State.refuse_d (r : RefuseReason) (s : State) : (s.refuse r).d = s.d := rfl
@[simp] theorem State.refuse_phase (r : RefuseReason) (s : State) : (s.refuse r).phase = s.phase := rfl
@[simp] theorem State.refuse_stepCount (r : RefuseReason) (s : State) : (s.refuse r).stepCount = s.stepCount := rfl
@[simp] theorem State.refuse_result (r : RefuseReason) (s : State) : (s.refuse r).result = s.result := rfl
@[simp] theorem State.refuse_refused (r : RefuseReason) (s : State) : (s.refuse r).refused = true := rfl
@[simp] theorem State.refuse_buf (r : RefuseReason) (s : State) : (s.refuse r).buf = s.buf := rfl
@[simp] theorem State.refuse_fill (r : RefuseReason) (s : State) : (s.refuse r).fill = s.fill := rfl
@[simp] theorem State.refuse_rstLvl (r : RefuseReason) (s : State) : (s.refuse r).rstLvl = s.rstLvl := rfl
@[simp] theorem State.refuse_csLvl (r : RefuseReason) (s : State) : (s.refuse r).csLvl = s.csLvl := rfl
@[simp] theorem State.refuse_dcLvl (r : RefuseReason) (s : State) : (s.refuse r).dcLvl = s.dcLvl := rfl
@[simp] theorem State.refuse_ctlInit (r : RefuseReason) (s : State) : (s.refuse r).ctlInit = s.ctlInit := rfl
@[simp] theorem State.refuse_trace (r : RefuseReason) (s : State) : (s.refuse r).trace = s.trace := rfl
@[simp] theorem State.refuse_todo (r : RefuseReason) (s : State) : (s.refuse r).todo = s.todo := rfl
@[simp] theorem State.refuse_hostOps (r : RefuseReason) (s : State) : (s.refuse r).hostOps = s.hostOps := rfl
@[simp] theorem State.refuse_stream (r : RefuseReason) (s : State) : (s.refuse r).stream = s.stream := rfl
@[simp] theorem State.refuse_answers (r : RefuseReason) (s : State) : (s.refuse r).answers = s.answers := rfl
@[simp] theorem State.refuse_draws (r : RefuseReason) (s : State) : (s.refuse r).draws = s.draws := rfl
@[simp] theorem State.refuse_responses (r : RefuseReason) (s : State) : (s.refuse r).responses = s.responses := rfl
@[simp] theorem State.refuse_refusals (r : RefuseReason) (s : State) : (s.refuse r).refusals = s.refusals ++ [r] := rfl

/-! ### State.latch -/

@[simp] theorem State.latch_cfg (q : Byte) (x y z w : Word) (s : State) : (s.latch q x y z w).cfg = s.cfg := rfl
@[simp] theorem State.latch_req (q : Byte) (x y z w : Word) (s : State) : (s.latch q x y z w).req = q := rfl
@[simp] theorem State.latch_a (q : Byte) (x y z w : Word) (s : State) : (s.latch q x y z w).a = x := rfl
@[simp] theorem State.latch_b (q : Byte) (x y z w : Word) (s : State) : (s.latch q x y z w).b = y := rfl
@[simp] theorem State.latch_c (q : Byte) (x y z w : Word) (s : State) : (s.latch q x y z w).c = z := rfl
@[simp] theorem State.latch_d (q : Byte) (x y z w : Word) (s : State) : (s.latch q x y z w).d = w := rfl
@[simp] theorem State.latch_phase (q : Byte) (x y z w : Word) (s : State) : (s.latch q x y z w).phase = .busy := rfl
@[simp] theorem State.latch_stepCount (q : Byte) (x y z w : Word) (s : State) : (s.latch q x y z w).stepCount = 0 := rfl
@[simp] theorem State.latch_result (q : Byte) (x y z w : Word) (s : State) : (s.latch q x y z w).result = s.result := rfl
@[simp] theorem State.latch_refused (q : Byte) (x y z w : Word) (s : State) : (s.latch q x y z w).refused = s.refused := rfl
@[simp] theorem State.latch_buf (q : Byte) (x y z w : Word) (s : State) : (s.latch q x y z w).buf = s.buf := rfl
@[simp] theorem State.latch_fill (q : Byte) (x y z w : Word) (s : State) : (s.latch q x y z w).fill = 0 := rfl
@[simp] theorem State.latch_rstLvl (q : Byte) (x y z w : Word) (s : State) : (s.latch q x y z w).rstLvl = s.rstLvl := rfl
@[simp] theorem State.latch_csLvl (q : Byte) (x y z w : Word) (s : State) : (s.latch q x y z w).csLvl = s.csLvl := rfl
@[simp] theorem State.latch_dcLvl (q : Byte) (x y z w : Word) (s : State) : (s.latch q x y z w).dcLvl = s.dcLvl := rfl
@[simp] theorem State.latch_ctlInit (q : Byte) (x y z w : Word) (s : State) : (s.latch q x y z w).ctlInit = s.ctlInit := rfl
@[simp] theorem State.latch_trace (q : Byte) (x y z w : Word) (s : State) : (s.latch q x y z w).trace = s.trace := rfl
@[simp] theorem State.latch_todo (q : Byte) (x y z w : Word) (s : State) : (s.latch q x y z w).todo = s.todo := rfl
@[simp] theorem State.latch_hostOps (q : Byte) (x y z w : Word) (s : State) : (s.latch q x y z w).hostOps = s.hostOps := rfl
@[simp] theorem State.latch_stream (q : Byte) (x y z w : Word) (s : State) : (s.latch q x y z w).stream = s.stream := rfl
@[simp] theorem State.latch_answers (q : Byte) (x y z w : Word) (s : State) : (s.latch q x y z w).answers = s.answers := rfl
@[simp] theorem State.latch_draws (q : Byte) (x y z w : Word) (s : State) : (s.latch q x y z w).draws = s.draws := rfl
@[simp] theorem State.latch_responses (q : Byte) (x y z w : Word) (s : State) : (s.latch q x y z w).responses = s.responses := rfl
@[simp] theorem State.latch_refusals (q : Byte) (x y z w : Word) (s : State) : (s.latch q x y z w).refusals = s.refusals := rfl

/-! ### State.performed -/

@[simp] theorem State.performed_cfg (p : Prim) (o : Answer) (s : State) : (s.performed p o).cfg = s.cfg := rfl
@[simp] theorem State.performed_req (p : Prim) (o : Answer) (s : State) : (s.performed p o).req = s.req := rfl
@[simp] theorem State.performed_a (p : Prim) (o : Answer) (s : State) : (s.performed p o).a = s.a := rfl
@[simp] theorem State.performed_b (p : Prim) (o : Answer) (s : State) : (s.performed p o).b = s.b := rfl
@[simp] theorem State.performed_c (p : Prim) (o : Answer) (s : State) : (s.performed p o).c = s.c := rfl
@[simp] theorem State.performed_d (p : Prim) (o : Answer) (s : State) : (s.performed p o).d = s.d := rfl
@[simp] theorem State.performed_phase (p : Prim) (o : Answer) (s : State) : (s.performed p o).phase = s.phase := rfl
@[simp] theorem State.performed_stepCount (p : Prim) (o : Answer) (s : State) : (s.performed p o).stepCount = s.stepCount + 1 := rfl
@[simp] theorem State.performed_result (p : Prim) (o : Answer) (s : State) : (s.performed p o).result = s.result := rfl
@[simp] theorem State.performed_refused (p : Prim) (o : Answer) (s : State) : (s.performed p o).refused = s.refused := rfl
@[simp] theorem State.performed_buf (p : Prim) (o : Answer) (s : State) : (s.performed p o).buf = s.buf := rfl
@[simp] theorem State.performed_fill (p : Prim) (o : Answer) (s : State) : (s.performed p o).fill = s.fill := rfl
@[simp] theorem State.performed_rstLvl (p : Prim) (o : Answer) (s : State) : (s.performed p o).rstLvl = p.rstAfter o s.rstLvl := rfl
@[simp] theorem State.performed_csLvl (p : Prim) (o : Answer) (s : State) : (s.performed p o).csLvl = p.csAfter o s.csLvl := rfl
@[simp] theorem State.performed_dcLvl (p : Prim) (o : Answer) (s : State) : (s.performed p o).dcLvl = p.dcAfter o s.dcLvl := rfl
@[simp] theorem State.performed_ctlInit (p : Prim) (o : Answer) (s : State) : (s.performed p o).ctlInit = s.ctlInit := rfl
@[simp] theorem State.performed_trace (p : Prim) (o : Answer) (s : State) : (s.performed p o).trace = s.trace ++ [⟨p, o⟩] := rfl
@[simp] theorem State.performed_todo (p : Prim) (o : Answer) (s : State) : (s.performed p o).todo = s.todo := rfl
@[simp] theorem State.performed_hostOps (p : Prim) (o : Answer) (s : State) : (s.performed p o).hostOps = s.hostOps := rfl
@[simp] theorem State.performed_stream (p : Prim) (o : Answer) (s : State) : (s.performed p o).stream = s.stream := rfl
@[simp] theorem State.performed_answers (p : Prim) (o : Answer) (s : State) : (s.performed p o).answers = if p.fallible then s.answers.tail else s.answers := rfl
@[simp] theorem State.performed_draws (p : Prim) (o : Answer) (s : State) : (s.performed p o).draws = if p.fallible && s.answers.isEmpty then s.draws + 1 else s.draws := rfl
@[simp] theorem State.performed_responses (p : Prim) (o : Answer) (s : State) : (s.performed p o).responses = s.responses := rfl
@[simp] theorem State.performed_refusals (p : Prim) (o : Answer) (s : State) : (s.performed p o).refusals = s.refusals := rfl

/-! ### State.withTodo -/

@[simp] theorem State.withTodo_cfg (ops : List MicroOp) (s : State) : (s.withTodo ops).cfg = s.cfg := rfl
@[simp] theorem State.withTodo_req (ops : List MicroOp) (s : State) : (s.withTodo ops).req = s.req := rfl
@[simp] theorem State.withTodo_a (ops : List MicroOp) (s : State) : (s.withTodo ops).a = s.a := rfl
@[simp] theorem State.withTodo_b (ops : List MicroOp) (s : State) : (s.withTodo ops).b = s.b := rfl
@[simp] theorem State.withTodo_c (ops : List MicroOp) (s : State) : (s.withTodo ops).c = s.c := rfl
@[simp] theorem State.withTodo_d (ops : List MicroOp) (s : State) : (s.withTodo ops).d = s.d := rfl
@[simp] theorem State.withTodo_phase (ops : List MicroOp) (s : State) : (s.withTodo ops).phase = s.phase := rfl
@[simp] theorem State.withTodo_stepCount (ops : List MicroOp) (s : State) : (s.withTodo ops).stepCount = s.stepCount := rfl
@[simp] theorem State.withTodo_result (ops : List MicroOp) (s : State) : (s.withTodo ops).result = s.result := rfl
@[simp] theorem State.withTodo_refused (ops : List MicroOp) (s : State) : (s.withTodo ops).refused = s.refused := rfl
@[simp] theorem State.withTodo_buf (ops : List MicroOp) (s : State) : (s.withTodo ops).buf = s.buf := rfl
@[simp] theorem State.withTodo_fill (ops : List MicroOp) (s : State) : (s.withTodo ops).fill = s.fill := rfl
@[simp] theorem State.withTodo_rstLvl (ops : List MicroOp) (s : State) : (s.withTodo ops).rstLvl = s.rstLvl := rfl
@[simp] theorem State.withTodo_csLvl (ops : List MicroOp) (s : State) : (s.withTodo ops).csLvl = s.csLvl := rfl
@[simp] theorem State.withTodo_dcLvl (ops : List MicroOp) (s : State) : (s.withTodo ops).dcLvl = s.dcLvl := rfl
@[simp] theorem State.withTodo_ctlInit (ops : List MicroOp) (s : State) : (s.withTodo ops).ctlInit = s.ctlInit := rfl
@[simp] theorem State.withTodo_trace (ops : List MicroOp) (s : State) : (s.withTodo ops).trace = s.trace := rfl
@[simp] theorem State.withTodo_todo (ops : List MicroOp) (s : State) : (s.withTodo ops).todo = ops := rfl
@[simp] theorem State.withTodo_hostOps (ops : List MicroOp) (s : State) : (s.withTodo ops).hostOps = s.hostOps := rfl
@[simp] theorem State.withTodo_stream (ops : List MicroOp) (s : State) : (s.withTodo ops).stream = s.stream := rfl
@[simp] theorem State.withTodo_answers (ops : List MicroOp) (s : State) : (s.withTodo ops).answers = s.answers := rfl
@[simp] theorem State.withTodo_draws (ops : List MicroOp) (s : State) : (s.withTodo ops).draws = s.draws := rfl
@[simp] theorem State.withTodo_responses (ops : List MicroOp) (s : State) : (s.withTodo ops).responses = s.responses := rfl
@[simp] theorem State.withTodo_refusals (ops : List MicroOp) (s : State) : (s.withTodo ops).refusals = s.refusals := rfl

/-! ### State.clearFill -/

@[simp] theorem State.clearFill_cfg (s : State) : s.clearFill.cfg = s.cfg := rfl
@[simp] theorem State.clearFill_req (s : State) : s.clearFill.req = s.req := rfl
@[simp] theorem State.clearFill_a (s : State) : s.clearFill.a = s.a := rfl
@[simp] theorem State.clearFill_b (s : State) : s.clearFill.b = s.b := rfl
@[simp] theorem State.clearFill_c (s : State) : s.clearFill.c = s.c := rfl
@[simp] theorem State.clearFill_d (s : State) : s.clearFill.d = s.d := rfl
@[simp] theorem State.clearFill_phase (s : State) : s.clearFill.phase = s.phase := rfl
@[simp] theorem State.clearFill_stepCount (s : State) : s.clearFill.stepCount = s.stepCount := rfl
@[simp] theorem State.clearFill_result (s : State) : s.clearFill.result = s.result := rfl
@[simp] theorem State.clearFill_refused (s : State) : s.clearFill.refused = s.refused := rfl
@[simp] theorem State.clearFill_buf (s : State) : s.clearFill.buf = s.buf := rfl
@[simp] theorem State.clearFill_fill (s : State) : s.clearFill.fill = 0 := rfl
@[simp] theorem State.clearFill_rstLvl (s : State) : s.clearFill.rstLvl = s.rstLvl := rfl
@[simp] theorem State.clearFill_csLvl (s : State) : s.clearFill.csLvl = s.csLvl := rfl
@[simp] theorem State.clearFill_dcLvl (s : State) : s.clearFill.dcLvl = s.dcLvl := rfl
@[simp] theorem State.clearFill_ctlInit (s : State) : s.clearFill.ctlInit = s.ctlInit := rfl
@[simp] theorem State.clearFill_trace (s : State) : s.clearFill.trace = s.trace := rfl
@[simp] theorem State.clearFill_todo (s : State) : s.clearFill.todo = s.todo := rfl
@[simp] theorem State.clearFill_hostOps (s : State) : s.clearFill.hostOps = s.hostOps := rfl
@[simp] theorem State.clearFill_stream (s : State) : s.clearFill.stream = s.stream := rfl
@[simp] theorem State.clearFill_answers (s : State) : s.clearFill.answers = s.answers := rfl
@[simp] theorem State.clearFill_draws (s : State) : s.clearFill.draws = s.draws := rfl
@[simp] theorem State.clearFill_responses (s : State) : s.clearFill.responses = s.responses := rfl
@[simp] theorem State.clearFill_refusals (s : State) : s.clearFill.refusals = s.refusals := rfl

/-! ### State.setCtlInit -/

@[simp] theorem State.setCtlInit_cfg (v : Bool) (s : State) : (s.setCtlInit v).cfg = s.cfg := rfl
@[simp] theorem State.setCtlInit_req (v : Bool) (s : State) : (s.setCtlInit v).req = s.req := rfl
@[simp] theorem State.setCtlInit_a (v : Bool) (s : State) : (s.setCtlInit v).a = s.a := rfl
@[simp] theorem State.setCtlInit_b (v : Bool) (s : State) : (s.setCtlInit v).b = s.b := rfl
@[simp] theorem State.setCtlInit_c (v : Bool) (s : State) : (s.setCtlInit v).c = s.c := rfl
@[simp] theorem State.setCtlInit_d (v : Bool) (s : State) : (s.setCtlInit v).d = s.d := rfl
@[simp] theorem State.setCtlInit_phase (v : Bool) (s : State) : (s.setCtlInit v).phase = s.phase := rfl
@[simp] theorem State.setCtlInit_stepCount (v : Bool) (s : State) : (s.setCtlInit v).stepCount = s.stepCount := rfl
@[simp] theorem State.setCtlInit_result (v : Bool) (s : State) : (s.setCtlInit v).result = s.result := rfl
@[simp] theorem State.setCtlInit_refused (v : Bool) (s : State) : (s.setCtlInit v).refused = s.refused := rfl
@[simp] theorem State.setCtlInit_buf (v : Bool) (s : State) : (s.setCtlInit v).buf = s.buf := rfl
@[simp] theorem State.setCtlInit_fill (v : Bool) (s : State) : (s.setCtlInit v).fill = s.fill := rfl
@[simp] theorem State.setCtlInit_rstLvl (v : Bool) (s : State) : (s.setCtlInit v).rstLvl = s.rstLvl := rfl
@[simp] theorem State.setCtlInit_csLvl (v : Bool) (s : State) : (s.setCtlInit v).csLvl = s.csLvl := rfl
@[simp] theorem State.setCtlInit_dcLvl (v : Bool) (s : State) : (s.setCtlInit v).dcLvl = s.dcLvl := rfl
@[simp] theorem State.setCtlInit_ctlInit (v : Bool) (s : State) : (s.setCtlInit v).ctlInit = v := rfl
@[simp] theorem State.setCtlInit_trace (v : Bool) (s : State) : (s.setCtlInit v).trace = s.trace := rfl
@[simp] theorem State.setCtlInit_todo (v : Bool) (s : State) : (s.setCtlInit v).todo = s.todo := rfl
@[simp] theorem State.setCtlInit_hostOps (v : Bool) (s : State) : (s.setCtlInit v).hostOps = s.hostOps := rfl
@[simp] theorem State.setCtlInit_stream (v : Bool) (s : State) : (s.setCtlInit v).stream = s.stream := rfl
@[simp] theorem State.setCtlInit_answers (v : Bool) (s : State) : (s.setCtlInit v).answers = s.answers := rfl
@[simp] theorem State.setCtlInit_draws (v : Bool) (s : State) : (s.setCtlInit v).draws = s.draws := rfl
@[simp] theorem State.setCtlInit_responses (v : Bool) (s : State) : (s.setCtlInit v).responses = s.responses := rfl
@[simp] theorem State.setCtlInit_refusals (v : Bool) (s : State) : (s.setCtlInit v).refusals = s.refusals := rfl

/-! ### State.pulled -/

@[simp] theorem State.pulled_cfg (x : TokenStream) (s : State) : (s.pulled x).cfg = s.cfg := rfl
@[simp] theorem State.pulled_req (x : TokenStream) (s : State) : (s.pulled x).req = s.req := rfl
@[simp] theorem State.pulled_a (x : TokenStream) (s : State) : (s.pulled x).a = s.a := rfl
@[simp] theorem State.pulled_b (x : TokenStream) (s : State) : (s.pulled x).b = s.b := rfl
@[simp] theorem State.pulled_c (x : TokenStream) (s : State) : (s.pulled x).c = s.c := rfl
@[simp] theorem State.pulled_d (x : TokenStream) (s : State) : (s.pulled x).d = s.d := rfl
@[simp] theorem State.pulled_phase (x : TokenStream) (s : State) : (s.pulled x).phase = s.phase := rfl
@[simp] theorem State.pulled_stepCount (x : TokenStream) (s : State) : (s.pulled x).stepCount = s.stepCount + 1 := rfl
@[simp] theorem State.pulled_result (x : TokenStream) (s : State) : (s.pulled x).result = s.result := rfl
@[simp] theorem State.pulled_refused (x : TokenStream) (s : State) : (s.pulled x).refused = s.refused := rfl
@[simp] theorem State.pulled_buf (x : TokenStream) (s : State) : (s.pulled x).buf = s.buf := rfl
@[simp] theorem State.pulled_fill (x : TokenStream) (s : State) : (s.pulled x).fill = s.fill := rfl
@[simp] theorem State.pulled_rstLvl (x : TokenStream) (s : State) : (s.pulled x).rstLvl = s.rstLvl := rfl
@[simp] theorem State.pulled_csLvl (x : TokenStream) (s : State) : (s.pulled x).csLvl = s.csLvl := rfl
@[simp] theorem State.pulled_dcLvl (x : TokenStream) (s : State) : (s.pulled x).dcLvl = s.dcLvl := rfl
@[simp] theorem State.pulled_ctlInit (x : TokenStream) (s : State) : (s.pulled x).ctlInit = s.ctlInit := rfl
@[simp] theorem State.pulled_trace (x : TokenStream) (s : State) : (s.pulled x).trace = s.trace := rfl
@[simp] theorem State.pulled_todo (x : TokenStream) (s : State) : (s.pulled x).todo = s.todo := rfl
@[simp] theorem State.pulled_hostOps (x : TokenStream) (s : State) : (s.pulled x).hostOps = s.hostOps := rfl
@[simp] theorem State.pulled_stream (x : TokenStream) (s : State) : (s.pulled x).stream = x := rfl
@[simp] theorem State.pulled_answers (x : TokenStream) (s : State) : (s.pulled x).answers = s.answers := rfl
@[simp] theorem State.pulled_draws (x : TokenStream) (s : State) : (s.pulled x).draws = s.draws := rfl
@[simp] theorem State.pulled_responses (x : TokenStream) (s : State) : (s.pulled x).responses = s.responses := rfl
@[simp] theorem State.pulled_refusals (x : TokenStream) (s : State) : (s.pulled x).refusals = s.refusals := rfl

/-! ### State.withHost -/

@[simp] theorem State.withHost_cfg (ops : List HostOp) (stream : TokenStream) (s : State) :
    (s.withHost ops stream).cfg = s.cfg := rfl
@[simp] theorem State.withHost_req (ops : List HostOp) (stream : TokenStream) (s : State) :
    (s.withHost ops stream).req = s.req := rfl
@[simp] theorem State.withHost_a (ops : List HostOp) (stream : TokenStream) (s : State) :
    (s.withHost ops stream).a = s.a := rfl
@[simp] theorem State.withHost_b (ops : List HostOp) (stream : TokenStream) (s : State) :
    (s.withHost ops stream).b = s.b := rfl
@[simp] theorem State.withHost_c (ops : List HostOp) (stream : TokenStream) (s : State) :
    (s.withHost ops stream).c = s.c := rfl
@[simp] theorem State.withHost_d (ops : List HostOp) (stream : TokenStream) (s : State) :
    (s.withHost ops stream).d = s.d := rfl
@[simp] theorem State.withHost_phase (ops : List HostOp) (stream : TokenStream) (s : State) :
    (s.withHost ops stream).phase = s.phase := rfl
@[simp] theorem State.withHost_stepCount (ops : List HostOp) (stream : TokenStream) (s : State) :
    (s.withHost ops stream).stepCount = s.stepCount := rfl
@[simp] theorem State.withHost_result (ops : List HostOp) (stream : TokenStream) (s : State) :
    (s.withHost ops stream).result = s.result := rfl
@[simp] theorem State.withHost_refused (ops : List HostOp) (stream : TokenStream) (s : State) :
    (s.withHost ops stream).refused = s.refused := rfl
@[simp] theorem State.withHost_buf (ops : List HostOp) (stream : TokenStream) (s : State) :
    (s.withHost ops stream).buf = s.buf := rfl
@[simp] theorem State.withHost_fill (ops : List HostOp) (stream : TokenStream) (s : State) :
    (s.withHost ops stream).fill = s.fill := rfl
@[simp] theorem State.withHost_rstLvl (ops : List HostOp) (stream : TokenStream) (s : State) :
    (s.withHost ops stream).rstLvl = s.rstLvl := rfl
@[simp] theorem State.withHost_csLvl (ops : List HostOp) (stream : TokenStream) (s : State) :
    (s.withHost ops stream).csLvl = s.csLvl := rfl
@[simp] theorem State.withHost_dcLvl (ops : List HostOp) (stream : TokenStream) (s : State) :
    (s.withHost ops stream).dcLvl = s.dcLvl := rfl
@[simp] theorem State.withHost_ctlInit (ops : List HostOp) (stream : TokenStream) (s : State) :
    (s.withHost ops stream).ctlInit = s.ctlInit := rfl
@[simp] theorem State.withHost_trace (ops : List HostOp) (stream : TokenStream) (s : State) :
    (s.withHost ops stream).trace = s.trace := rfl
@[simp] theorem State.withHost_todo (ops : List HostOp) (stream : TokenStream) (s : State) :
    (s.withHost ops stream).todo = s.todo := rfl
@[simp] theorem State.withHost_hostOps (ops : List HostOp) (stream : TokenStream) (s : State) :
    (s.withHost ops stream).hostOps = ops := rfl
@[simp] theorem State.withHost_stream (ops : List HostOp) (stream : TokenStream) (s : State) :
    (s.withHost ops stream).stream = stream := rfl
@[simp] theorem State.withHost_answers (ops : List HostOp) (stream : TokenStream) (s : State) :
    (s.withHost ops stream).answers = s.answers := rfl
@[simp] theorem State.withHost_draws (ops : List HostOp) (stream : TokenStream) (s : State) :
    (s.withHost ops stream).draws = s.draws := rfl
@[simp] theorem State.withHost_responses (ops : List HostOp) (stream : TokenStream) (s : State) :
    (s.withHost ops stream).responses = s.responses := rfl
@[simp] theorem State.withHost_refusals (ops : List HostOp) (stream : TokenStream) (s : State) :
    (s.withHost ops stream).refusals = s.refusals := rfl

/-! ### Updates meeting -/

@[simp] theorem State.withTodo_withTodo (x y : List MicroOp) (s : State) : (s.withTodo x).withTodo y = s.withTodo y := rfl

@[simp] theorem State.performed_withTodo (p : Prim) (o : Answer) (x : List MicroOp) (s : State) :
    (s.withTodo x).performed p o = (s.performed p o).withTodo x := rfl

@[simp] theorem State.complete_withTodo (x : List MicroOp) (s : State) : (s.withTodo x).complete = s.complete := rfl

@[simp] theorem State.abort_withTodo (e : ErrorKind) (x : List MicroOp) (s : State) :
    (s.withTodo x).abort e = s.abort e := rfl

@[simp] theorem State.clearFill_withTodo (x : List MicroOp) (s : State) :
    (s.withTodo x).clearFill = s.clearFill.withTodo x := rfl

@[simp] theorem State.setCtlInit_withTodo (v : Bool) (x : List MicroOp) (s : State) :
    (s.withTodo x).setCtlInit v = (s.setCtlInit v).withTodo x := rfl

/-! ### State.staged and State.stageWord -/

@[simp] theorem State.staged_cfg (w : Word) (s : State) : (s.staged w).cfg = s.cfg := rfl
@[simp] theorem State.staged_req (w : Word) (s : State) : (s.staged w).req = s.req := rfl
@[simp] theorem State.staged_a (w : Word) (s : State) : (s.staged w).a = s.a := rfl
@[simp] theorem State.staged_b (w : Word) (s : State) : (s.staged w).b = s.b := rfl
@[simp] theorem State.staged_c (w : Word) (s : State) : (s.staged w).c = s.c := rfl
@[simp] theorem State.staged_d (w : Word) (s : State) : (s.staged w).d = s.d := rfl
@[simp] theorem State.staged_phase (w : Word) (s : State) : (s.staged w).phase = s.phase := rfl
@[simp] theorem State.staged_stepCount (w : Word) (s : State) : (s.staged w).stepCount = s.stepCount := rfl
@[simp] theorem State.staged_result (w : Word) (s : State) : (s.staged w).result = s.result := rfl
@[simp] theorem State.staged_refused (w : Word) (s : State) : (s.staged w).refused = s.refused := rfl
@[simp] theorem State.staged_buf (w : Word) (s : State) :
    (s.staged w).buf = Memory.write (Memory.write s.buf (2 * s.fill) (hiByte w)) (2 * s.fill + 1) (loByte w) := rfl
@[simp] theorem State.staged_fill (w : Word) (s : State) : (s.staged w).fill = s.fill + 1 := rfl
@[simp] theorem State.staged_rstLvl (w : Word) (s : State) : (s.staged w).rstLvl = s.rstLvl := rfl
@[simp] theorem State.staged_csLvl (w : Word) (s : State) : (s.staged w).csLvl = s.csLvl := rfl
@[simp] theorem State.staged_dcLvl (w : Word) (s : State) : (s.staged w).dcLvl = s.dcLvl := rfl
@[simp] theorem State.staged_ctlInit (w : Word) (s : State) : (s.staged w).ctlInit = s.ctlInit := rfl
@[simp] theorem State.staged_trace (w : Word) (s : State) : (s.staged w).trace = s.trace := rfl
@[simp] theorem State.staged_todo (w : Word) (s : State) : (s.staged w).todo = s.todo := rfl
@[simp] theorem State.staged_hostOps (w : Word) (s : State) : (s.staged w).hostOps = s.hostOps := rfl
@[simp] theorem State.staged_stream (w : Word) (s : State) : (s.staged w).stream = s.stream := rfl
@[simp] theorem State.staged_answers (w : Word) (s : State) : (s.staged w).answers = s.answers := rfl
@[simp] theorem State.staged_draws (w : Word) (s : State) : (s.staged w).draws = s.draws := rfl
@[simp] theorem State.staged_responses (w : Word) (s : State) : (s.staged w).responses = s.responses := rfl
@[simp] theorem State.staged_refusals (w : Word) (s : State) : (s.staged w).refusals = s.refusals := rfl

@[simp] theorem State.staged_withTodo (w : Word) (x : List MicroOp) (s : State) :
    (s.withTodo x).staged w = (s.staged w).withTodo x := rfl

/-- There is room for a word exactly when FILL < CFG_CHUNK (R31, R125). -/
theorem State.stageWord_some {w : Word} {s t : State} (h : s.stageWord w = some t) :
    s.fill < s.cfg.chunk ∧ t = s.staged w := by
  unfold State.stageWord at h
  split at h
  · cases h; exact ⟨‹_›, rfl⟩
  · cases h

theorem State.stageWord_of_lt {s : State} (h : s.fill < s.cfg.chunk) (w : Word) : s.stageWord w = some (s.staged w) :=
  if_pos h

theorem State.stageWord_withTodo (w : Word) (x : List MicroOp) (s : State) :
    (s.withTodo x).stageWord w = (s.stageWord w).map (State.withTodo x) := by
  by_cases h : s.fill < s.cfg.chunk <;> simp [State.stageWord, h]

end Sys2Proof.Machine
end

