-- ==== Sys2Proof/Laws/Ops.lean ====
section
/-! SUPPORT. What each shared operation can do, said once: the environment's answers, the register writes between two
primitives (`settle`), one primitive (`runPrim`), a frame (`runFrame`), one Pull (`runPull`), and a run of primitives. -/

namespace Sys2Proof.Machine

/-! ### Answers -/

/-- A fallible primitive uses up exactly one answer. -/
theorem State.answerAt_performed {p : Prim} (hp : p.fallible = true) (o : Answer) (k : Nat) (s : State) :
    (s.performed p o).answerAt k = s.answerAt (k + 1) := by
  rcases h : s.answers with _ | ⟨a, as⟩ <;>
    simp [State.answerAt, hp, h, Nat.add_comm, Nat.add_left_comm]

/-- An infallible primitive uses up none. -/
theorem State.answerAt_performed_wait {p : Prim} (hp : p.fallible = false) (o : Answer) (k : Nat) (s : State) :
    (s.performed p o).answerAt k = s.answerAt k := by
  simp [State.answerAt, hp]

/-! ### settle -/

/-- What `settle` leaves alone, and the two ways it ends: work is left and the request goes on, or none is and it
completes with OK. -/
structure Settled (ops : List MicroOp) (s t : State) : Prop where
  cfg : t.cfg = s.cfg
  req : t.req = s.req
  a : t.a = s.a
  b : t.b = s.b
  c : t.c = s.c
  d : t.d = s.d
  stepCount : t.stepCount = s.stepCount
  refused : t.refused = s.refused
  rstLvl : t.rstLvl = s.rstLvl
  csLvl : t.csLvl = s.csLvl
  dcLvl : t.dcLvl = s.dcLvl
  trace : t.trace = s.trace
  hostOps : t.hostOps = s.hostOps
  stream : t.stream = s.stream
  answers : t.answers = s.answers
  draws : t.draws = s.draws
  refusals : t.refusals = s.refusals
  ctlInit : t.ctlInit = true → .markInit ∈ ops ∨ s.ctlInit = true
  ctlInit_keep : s.ctlInit = true → t.ctlInit = true
  fill : .clearFill ∉ ops → .stagePixel ∉ ops → t.fill = s.fill
  /-- BUF is written by SET_PIXEL's staging only, at bytes 0 and 1. -/
  buf : ∀ j, .stagePixel ∉ ops ∨ 2 ≤ j → Memory.read t.buf j = Memory.read s.buf j
  ends : (t.phase = s.phase ∧ t.result = s.result ∧ t.responses = s.responses ∧ t.todo ≠ []) ∨
    (t.phase = .idle ∧ t.result = some .ok ∧ t.responses = s.responses ++ [.ok] ∧ t.todo = [])

theorem settle_spec {ops : List MicroOp} {s t : State} (h : settle ops s = .next t) : Settled ops s t := by
  induction ops generalizing s with
  | nil => cases h; constructor <;> simp +contextual
  | cons m r ih =>
    cases m with
    | prim p => cases h; constructor <;> simp +contextual
    | pull => cases h; constructor <;> simp +contextual
    | cmd i => cases h; constructor <;> simp +contextual
    | clearFill =>
      have g := ih h
      exact { g with
        ctlInit := fun ht => (g.ctlInit ht).imp (by simp) id
        fill := fun h _ => absurd (by simp) h
        buf := fun j hj => g.buf j (hj.imp (by simp) id) }
    | markInit =>
      have g := ih h
      exact { g with
        ctlInit := fun _ => .inl (by simp)
        ctlInit_keep := fun _ => g.ctlInit_keep rfl
        fill := fun h h' => g.fill (by simp_all) (by simp_all)
        buf := fun j hj => g.buf j (hj.imp (by simp) id) }
    | stagePixel =>
      simp only [settle] at h
      split at h
      · obtain ⟨-, rfl⟩ := State.stageWord_some ‹_›
        have g := ih h
        refine { g with
          ctlInit := fun ht => (g.ctlInit ht).imp (by simp) id
          fill := fun _ h => absurd (by simp) h
          buf := fun j hj => ?_ }
        rcases hj with hj | hj
        · simp at hj
        · rw [g.buf j (.inr hj), State.staged_buf, State.clearFill_fill, State.clearFill_buf,
            Memory.read_write_other _ _ (by omega), Memory.read_write_other _ _ (by omega)]
      · cases h
    | flush =>
      simp only [settle] at h
      split at h
      · have g := ih h
        exact { g with
          ctlInit := fun ht => (g.ctlInit ht).imp (by simp) id
          fill := fun h h' => g.fill (by simp_all) (by simp_all)
          buf := fun j hj => g.buf j (hj.imp (by simp) id) }
      · split at h
        · cases h; constructor <;> simp +contextual
        · cases h

/-! ### One primitive -/

/-- A primitive either completes, and what stands behind it settles, or fails, and the request is aborted. -/
theorem runPrim_cases {p : Prim} {s t : State} (h : runPrim p s = .next t) :
    (settle s.todo (s.performed p .ok) = .next t ∧ (p.fallible = true → s.nextAnswer = .ok)) ∨
    (∃ e, p.error = some e ∧ s.nextAnswer = .fail ∧ t = (s.performed p .fail).abort e) := by
  unfold runPrim at h
  split at h
  · exact .inl ⟨h, fun hp => by simp_all [Prim.fallible]⟩
  · split at h
    · exact .inl ⟨h, fun _ => ‹_›⟩
    · cases h; exact .inr ⟨_, ‹_›, ‹_›, rfl⟩

theorem runPrim_ok {p : Prim} {s : State} (h : p.fallible = true → s.nextAnswer = .ok) :
    runPrim p s = settle s.todo (s.performed p .ok) := by
  unfold runPrim
  split
  · rfl
  · rw [h (by simp_all [Prim.fallible])]

theorem runPrim_fail {p : Prim} {e : ErrorKind} {s : State} (hp : p.error = some e) (h : s.nextAnswer = .fail) :
    runPrim p s = .next ((s.performed p .fail).abort e) := by
  simp [runPrim, hp, h]

/-- `settle` computes the work that is left anew: what stood in `todo` does not matter. -/
@[simp] theorem settle_withTodo (ops x : List MicroOp) (s : State) : settle ops (s.withTodo x) = settle ops s := by
  induction ops generalizing s with
  | nil => rfl
  | cons m r ih =>
    cases m with
    | prim p => rfl
    | pull => rfl
    | cmd i => rfl
    | clearFill => exact ih s.clearFill
    | markInit => exact ih (s.setCtlInit true)
    | stagePixel =>
      simp only [settle, State.clearFill_withTodo, State.stageWord_withTodo, State.withTodo_c]
      cases s.clearFill.stageWord s.c with
      | none => rfl
      | some u => exact ih u
    | flush =>
      by_cases hf : s.fill = 0
      · simp only [settle, State.withTodo_fill, hf, ↓reduceIte, ih]
      · simp only [settle, State.withTodo_fill, hf, ↓reduceIte]
        rfl

/-- A primitive answered OK, with x the work behind it. -/
theorem runPrim_withTodo_ok {p : Prim} {s : State} (x : List MicroOp) (h : p.fallible = true → s.nextAnswer = .ok) :
    runPrim p (s.withTodo x) = settle x (s.performed p .ok) := by
  rw [runPrim_ok (s := s.withTodo x) h]; simp

/-- A primitive answered FAIL aborts the request, whatever stands behind it. -/
theorem runPrim_withTodo_fail {p : Prim} {e : ErrorKind} {s : State} (x : List MicroOp) (hp : p.error = some e)
    (h : s.nextAnswer = .fail) : runPrim p (s.withTodo x) = .next ((s.performed p .fail).abort e) := by
  rw [runPrim_fail (s := s.withTodo x) hp h]; simp

/-! ### Frames -/

theorem frameCmd_ne_nil (cfg : Config) (op : Byte) (ps : List Byte) : frameCmd cfg op ps ≠ [] := by
  unfold frameCmd; split <;> simp

theorem frameData_ne_nil (cfg : Config) (bs : List Byte) : frameData cfg bs ≠ [] := by
  unfold frameData; split <;> simp

/-- A command begins its frame: the first primitive runs, the others stand in front of the work that follows. -/
theorem beginCommand_eq (op : Byte) (ps : List Byte) (s : State) :
    ∃ p rest, frameCmd s.cfg op ps = p :: rest ∧
      beginCommand op ps s = runPrim p (s.withTodo (rest.map .prim ++ s.todo)) := by
  unfold beginCommand
  rcases h : frameCmd s.cfg op ps with _ | ⟨p, rest⟩
  · exact absurd h (frameCmd_ne_nil _ _ _)
  · exact ⟨p, rest, rfl, rfl⟩

/-! ### Requests -/

theorem accept_idle {s : State} (h : s.phase = .idle) (q : Byte) (x y z w : Word) (work : State → List MicroOp) :
    accept q x y z w work s = .next ((s.latch q x y z w).withTodo (work (s.latch q x y z w))) := by
  simp [accept, h]

theorem accept_busy {s : State} (h : s.phase = .busy) (q : Byte) (x y z w : Word) (work : State → List MicroOp) :
    accept q x y z w work s = .next s := by
  simp [accept, h]

theorem acceptTimed_busy {s : State} (h : s.phase = .busy) (q : Byte) (x y z w : Word) (work : List MicroOp) :
    acceptTimed q x y z w work s = .next s := by
  simp [acceptTimed, h]

theorem acceptTimed_idle {s : State} (h : s.phase = .idle) (hd : s.cfg.hasDelay = true) (q : Byte) (x y z w : Word)
    (work : List MicroOp) :
    acceptTimed q x y z w work s = .next (((s.latch q x y z w).setCtlInit false).withTodo work) := by
  simp [acceptTimed, h, hd]

theorem acceptTimed_noDelay {s : State} (h : s.phase = .idle) (hd : s.cfg.hasDelay = false) (q : Byte) (x y z w : Word)
    (work : List MicroOp) :
    acceptTimed q x y z w work s = .next { (s.latch q x y z w).refuse .noDelayProvider with phase := .idle } := by
  simp [acceptTimed, h, hd]

/-! ### Runs of primitives -/

@[simp] theorem run_zero (s : State) : run 0 s = .next s := rfl

theorem run_succ {s t : State} (h : step s = .next t) (n : Nat) : run (n + 1) s = run n t := by
  have h' : Sys2Proof.core.step s = .next t := h
  simp only [run, Host.Core.run, h']
  rfl

/-- A run of at least one step ends in a state only if its first step does. -/
theorem run_succ_next {s t : State} {n : Nat} (h : run (n + 1) s = .next t) :
    ∃ u, step s = .next u ∧ run n u = .next t := by
  rcases hs : step s with u | r | r
  · exact ⟨u, rfl, by rwa [run_succ hs] at h⟩
  all_goals
    have h' : Sys2Proof.core.step s = _ := hs
    simp only [run, Host.Core.run, h'] at h
    cases h

theorem run_add {s t : State} {m : Nat} (h : run m s = .next t) (n : Nat) : run (m + n) s = run n t := by
  induction m generalizing s with
  | zero => cases h; simp
  | succ m ih =>
    obtain ⟨u, hu, hm⟩ := run_succ_next h
    rw [show m + 1 + n = (m + n) + 1 by omega, run_succ hu, ih hm]

theorem step_busy_prim {s : State} {p : Prim} {r : List MicroOp} (hb : s.phase = .busy) (ht : s.todo = .prim p :: r) :
    step s = runPrim p (s.withTodo r) := by
  simp [step, blockStep, busyStep, hb, ht]

theorem step_busy_cmd {s : State} {i : Instr} {r : List MicroOp} (hb : s.phase = .busy) (ht : s.todo = .cmd i :: r) :
    step s = exec i (s.withTodo r) := by
  simp [step, blockStep, busyStep, hb, ht]

theorem performedAll_cons (p : Prim) (ps : List Prim) (s : State) :
    s.performedAll (p :: ps) = (s.performed p .ok).performedAll ps := rfl

theorem performedAll_withTodo (ps : List Prim) (x : List MicroOp) (s : State) :
    (s.withTodo x).performedAll ps = (s.performedAll ps).withTodo x := by
  induction ps generalizing s with
  | nil => rfl
  | cons p ps ih => exact ih (s.performed p .ok)

theorem AnswersOk.head {p : Prim} {ps : List Prim} {s : State} (h : s.AnswersOk (p :: ps)) :
    p.fallible = true → s.nextAnswer = .ok := fun hp => h 0 (by simp [hp])

theorem AnswersOk.tail {p : Prim} {ps : List Prim} {s : State} (h : s.AnswersOk (p :: ps)) :
    (s.performed p .ok).AnswersOk ps := by
  intro k hk
  cases hp : p.fallible with
  | true => rw [State.answerAt_performed hp]; exact h _ (by simp [hp]; omega)
  | false => rw [State.answerAt_performed_wait hp]; exact h _ (by simpa [hp] using hk)

/-- Primitives whose answers are OK run one a step, and then what stands behind them settles. -/
theorem run_prims {ps : List Prim} {r : List MicroOp} {s : State} (hb : s.phase = .busy)
    (ht : s.todo = ps.map .prim ++ r) (hne : ps ≠ []) (ha : s.AnswersOk ps) :
    run ps.length s = settle r (s.performedAll ps) := by
  induction ps generalizing s with
  | nil => exact absurd rfl hne
  | cons p ps ih =>
    have h1 : step s = settle (ps.map .prim ++ r) (s.performed p .ok) := by
      have ht' : s.todo = .prim p :: (ps.map .prim ++ r) := ht
      rw [step_busy_prim hb ht', runPrim_withTodo_ok _ (AnswersOk.head ha)]
    cases ps with
    | nil =>
      simp only [List.map_nil, List.nil_append] at h1
      rw [performedAll_cons, List.length_singleton]
      rcases hs : step s with u | f | f
      · rw [run_succ hs, run_zero, ← hs, h1]; rfl
      all_goals
        have h' : Sys2Proof.core.step s = _ := hs
        simp only [run, Host.Core.run, h']
        rw [h1] at hs; exact hs.symm
    | cons q qs =>
      simp only [List.map_cons, List.cons_append, settle] at h1
      have h2 := ih (s := (s.performed p .ok).withTodo (.prim q :: (qs.map MicroOp.prim ++ r))) hb rfl (by simp)
        (AnswersOk.tail ha)
      rw [performedAll_withTodo, settle_withTodo] at h2
      rw [List.length_cons, run_succ h1, h2, ← performedAll_cons]

@[simp] theorem TokenStream.pull_listed (t : Token) (ts : List Token) (after : StreamEnd) :
    (⟨t :: ts, after⟩ : TokenStream).pull = some (t, ⟨ts, after⟩) := rfl

@[simp] theorem TokenStream.pull_endless (next : Nat) :
    (⟨[], .endless next⟩ : TokenStream).pull =
      some (wordToken (Config.freeColour next), ⟨[], .endless (next + 1)⟩) := rfl

@[simp] theorem TokenStream.pull_unanswered : (⟨[], .unanswered⟩ : TokenStream).pull = none := rfl

/-- A Pull never makes the host go silent or go on without end. -/
theorem TokenStream.pull_after {st st' : TokenStream} {t : Token} (h : st.pull = some (t, st')) :
    st'.after = .unanswered ↔ st.after = .unanswered := by
  rcases st with ⟨_ | ⟨x, ts⟩, _ | n⟩ <;> simp at h <;> obtain ⟨-, rfl⟩ := h <;> simp

/-- The step of a busy block at a Pull that is answered with a colour, where BUF has room (R125). -/
theorem step_pull_word {s : State} {c : Word} {r : List MicroOp} {st : TokenStream} (hb : s.phase = .busy)
    (ht : s.todo = .pull :: r) (hf : s.fill < s.cfg.chunk) (hp : s.stream.pull = some (wordToken c, st)) :
    step s =
      if s.fill + 1 = s.cfg.chunk then settle (.flush :: .pull :: r) (((s.withTodo r).pulled st).staged c)
      else .next ((((s.withTodo r).pulled st).staged c).withTodo (.pull :: r)) := by
  have he : ((s.withTodo r).pulled st).stageWord c = some (((s.withTodo r).pulled st).staged c) :=
    State.stageWord_of_lt (s := (s.withTodo r).pulled st) hf _
  simp only [step, blockStep, hb, busyStep, ht]
  unfold runPull
  rw [State.withTodo_stream, hp]
  simp only [tokenItem_wordToken, he]
  rfl

/-- All a frame's first primitive can do: the rest of the frame is left for the steps after it, or the request is
aborted. -/
theorem runFrame_cases {ps : List Prim} {s t : State} (hne : ps ≠ []) (h : runFrame ps s = .next t) :
    ∃ p rest, ps = p :: rest ∧
      ((Settled (rest.map .prim ++ s.todo) (s.performed p .ok) t ∧ (p.fallible = true → s.nextAnswer = .ok)) ∨
        ∃ e, p.error = some e ∧ s.nextAnswer = .fail ∧ t = (s.performed p .fail).abort e) := by
  rcases ps with _ | ⟨p, rest⟩
  · exact absurd rfl hne
  · refine ⟨p, rest, rfl, ?_⟩
    rcases runPrim_cases h with ⟨h1, h2⟩ | ⟨e, h1, h2, h3⟩
    · simp only [State.withTodo_todo, State.performed_withTodo, settle_withTodo] at h1
      exact .inl ⟨settle_spec h1, h2⟩
    · exact .inr ⟨e, h1, h2, by simpa using h3⟩

/-- A staged word stands behind the words staged before it, most significant byte first (R125, R141). -/
theorem stagedBytes_staged {s : State} {bs : List Byte} (h : s.stagedBytes = some bs) (c : Word) :
    (s.staged c).stagedBytes = some (bs ++ be16 c) := by
  obtain ⟨h1, h2⟩ := (Memory.readRange_iff _ _ _ _).mp h
  refine (Memory.readRange_iff _ _ _ _).mpr ⟨by simp [h1, be16]; omega, fun i hi => ?_⟩
  simp only [State.staged_buf, State.staged_fill, Nat.zero_add] at hi ⊢
  by_cases h3 : i < 2 * s.fill
  · rw [Memory.read_write_other _ _ (by omega), Memory.read_write_other _ _ (by omega),
      List.getElem?_append_left (by omega), h2 i h3]
    congr 1; omega
  · rw [List.getElem?_append_right (by omega), h1]
    by_cases h4 : i = 2 * s.fill
    · rw [Memory.read_write_other _ _ (by omega), h4]; simp [be16]
    · have : i = 2 * s.fill + 1 := by omega
      subst this; simp [be16]

/-- The answers an environment gives depend on the script and the counter alone. -/
theorem AnswersOk.congr {s t : State} (h1 : t.answers = s.answers) (h2 : t.draws = s.draws) (ps : List Prim)
    (h : s.AnswersOk ps) : t.AnswersOk ps := by
  intro k hk
  have := h k hk
  simpa [State.answerAt, h1, h2] using this

end Sys2Proof.Machine
end

