-- ==== Sys2Proof/Laws/PerInstr.lean ====
section
/-! SUPPORT. Statements made of every instruction as syntax, one lemma per constructor. -/

namespace Sys2Proof.Laws.EncodeLength

/-- How many parameter bytes follow a controller command's opcode (spec/30_encoding.md R81). -/
def paramCount : Instr → Nat
  | .init _ _ _ _ => 0
  | .hardReset _ _ _ _ => 0
  | .setOrientation _ _ _ _ _ => 0
  | .setPixel _ _ _ _ => 0
  | .setPixels _ _ _ _ => 0
  | .swreset => 0
  | .slpout => 0
  | .invoff => 0
  | .madctl _ => 1
  | .colmod _ => 1
  | .invon => 0
  | .noron => 0
  | .dispon => 0
  | .caset _ _ => 4
  | .raset _ _ => 4
  | .ramwr => 0

/-- A request is 72 bits long (R70), and a command frame is its opcode and its parameters (R79, R87). -/
def Statement (i : Instr) : Prop :=
  ∀ o : Opcodes, (encode o i).length = match i.port with
    | .request => 9
    | .bus => 1 + paramCount i

theorem init (a b c d : Word) : Statement (.init a b c d) := fun _ => rfl
theorem hardReset (a b c d : Word) : Statement (.hardReset a b c d) := fun _ => rfl
theorem setOrientation (ori : Orientation) (a b c d : Word) : Statement (.setOrientation ori a b c d) := fun _ => rfl
theorem setPixel (x y color d : Word) : Statement (.setPixel x y color d) := fun _ => rfl
theorem setPixels (sx sy ex ey : Word) : Statement (.setPixels sx sy ex ey) := fun _ => rfl
theorem swreset : Statement .swreset := fun _ => rfl
theorem slpout : Statement .slpout := fun _ => rfl
theorem invoff : Statement .invoff := fun _ => rfl
theorem madctl (b : Byte) : Statement (.madctl b) := fun _ => rfl
theorem colmod (b : Byte) : Statement (.colmod b) := fun _ => rfl
theorem invon : Statement .invon := fun _ => rfl
theorem noron : Statement .noron := fun _ => rfl
theorem dispon : Statement .dispon := fun _ => rfl
theorem caset (sx ex : Word) : Statement (.caset sx ex) := fun _ => rfl
theorem raset (sy ey : Word) : Statement (.raset sy ey) := fun _ => rfl
theorem ramwr : Statement .ramwr := fun _ => rfl

end Sys2Proof.Laws.EncodeLength
end

