-- ==== Sys2Proof/Laws/Runs.lean ====
section
/-! SUPPORT. Runs of a request's work: a stretch of primitives and commands, all answered OK, runs one primitive a step
and then what stands behind it settles; and the fields such a run leaves. -/

namespace Sys2Proof.Machine

/-- A controller command begins its frame. -/
theorem exec_bus {i : Instr} (hi : i.port = .bus) (s : State) : exec i s = runFrame (commandPrims s.cfg i) s := by
  cases i <;> first | rfl | cases hi

theorem commandPrims_ne_nil {i : Instr} (hi : i.port = .bus) (cfg : Config) : commandPrims cfg i ≠ [] := by
  cases i <;> first | exact frameCmd_ne_nil _ _ _ | cases hi

/-- An entry that reaches an event. -/
def MicroOp.loud : MicroOp → Bool
  | .prim _ => true
  | .cmd i => i.port == .bus
  | .pull => false
  | .clearFill => false
  | .stagePixel => false
  | .flush => false
  | .markInit => false

theorem settle_loud {m : MicroOp} (hm : m.loud = true) (r : List MicroOp) (s : State) :
    settle (m :: r) s = .next (s.withTodo (m :: r)) := by
  cases m <;> first | rfl | cases hm

theorem performedAll_append (ps qs : List Prim) (s : State) :
    s.performedAll (ps ++ qs) = (s.performedAll ps).performedAll qs := by
  simp [State.performedAll]

theorem AnswersOk.append_left {ps qs : List Prim} {s : State} (h : s.AnswersOk (ps ++ qs)) : s.AnswersOk ps :=
  fun k hk => h k (by rw [List.countP_append]; omega)

theorem answerAt_performedAll (ps : List Prim) (k : Nat) (s : State) :
    (s.performedAll ps).answerAt k = s.answerAt (k + ps.countP Prim.fallible) := by
  induction ps generalizing s with
  | nil => rfl
  | cons p ps ih =>
    rw [performedAll_cons, ih]
    cases hp : p.fallible with
    | true => rw [State.answerAt_performed hp, List.countP_cons_of_pos hp]; congr 1
    | false => rw [State.answerAt_performed_wait hp, List.countP_cons_of_neg (by simp [hp])]

theorem AnswersOk.append_right {ps qs : List Prim} {s : State} (h : s.AnswersOk (ps ++ qs)) :
    (s.performedAll ps).AnswersOk qs := fun k hk => by
  rw [answerAt_performedAll]
  exact h _ (by rw [List.countP_append]; omega)

/-- The first entry of a request's work, all its primitives answered OK. -/
theorem run_entry {m : MicroOp} {r : List MicroOp} {s : State} (hb : s.phase = .busy) (ht : s.todo = m :: r)
    (hm : m.loud = true) (ha : s.AnswersOk (workPrims s.cfg [m])) :
    run (workPrims s.cfg [m]).length s = settle r (s.performedAll (workPrims s.cfg [m])) := by
  cases m with
  | prim p => exact run_prims (ps := [p]) hb ht (by simp) ha
  | cmd i =>
    have hi : i.port = .bus := by simpa [MicroOp.loud] using hm
    simp only [workPrims, List.append_nil] at ha ⊢
    rcases hf : commandPrims s.cfg i with _ | ⟨p, ps⟩
    · exact absurd hf (commandPrims_ne_nil hi _)
    · rw [hf] at ha
      have h1 : step s = settle (ps.map .prim ++ r) (s.performed p .ok) := by
        rw [step_busy_cmd hb ht, exec_bus hi, State.withTodo_cfg, hf, runFrame, State.withTodo_todo,
          State.withTodo_withTodo, runPrim_withTodo_ok _ (AnswersOk.head ha)]
      have h2 := run_prims (s := s.withTodo ((p :: ps).map MicroOp.prim ++ r)) (ps := p :: ps) hb rfl (by simp) ha
      rw [performedAll_withTodo, settle_withTodo] at h2
      rw [← h2, List.length_cons]
      have h3 : step (s.withTodo ((p :: ps).map MicroOp.prim ++ r)) = settle (ps.map .prim ++ r) (s.performed p .ok) := by
        rw [step_busy_prim (s := s.withTodo ((p :: ps).map MicroOp.prim ++ r)) (r := ps.map MicroOp.prim ++ r) hb rfl, State.withTodo_withTodo,
          runPrim_withTodo_ok _ (AnswersOk.head ha)]
      simp only [run, Host.Core.run]
      rw [show Sys2Proof.core.step s = _ from h1, show Sys2Proof.core.step (s.withTodo _) = _ from h3]
  | pull => cases hm
  | clearFill => cases hm
  | stagePixel => cases hm
  | flush => cases hm
  | markInit => cases hm

theorem workPrims_append (cfg : Config) (ws r : List MicroOp) :
    workPrims cfg (ws ++ r) = workPrims cfg ws ++ workPrims cfg r := by
  induction ws with
  | nil => rfl
  | cons m ws ih => cases m <;> simp [workPrims, ih]

/-! ### The state after primitives that all completed -/

@[simp] theorem performedAll_cfg (ps : List Prim) (s : State) : (s.performedAll ps).cfg = s.cfg := by
  induction ps generalizing s with
  | nil => rfl
  | cons p ps ih => exact ih (s.performed p .ok)

@[simp] theorem performedAll_req (ps : List Prim) (s : State) : (s.performedAll ps).req = s.req := by
  induction ps generalizing s with
  | nil => rfl
  | cons p ps ih => exact ih (s.performed p .ok)

@[simp] theorem performedAll_a (ps : List Prim) (s : State) : (s.performedAll ps).a = s.a := by
  induction ps generalizing s with
  | nil => rfl
  | cons p ps ih => exact ih (s.performed p .ok)

@[simp] theorem performedAll_b (ps : List Prim) (s : State) : (s.performedAll ps).b = s.b := by
  induction ps generalizing s with
  | nil => rfl
  | cons p ps ih => exact ih (s.performed p .ok)

@[simp] theorem performedAll_c (ps : List Prim) (s : State) : (s.performedAll ps).c = s.c := by
  induction ps generalizing s with
  | nil => rfl
  | cons p ps ih => exact ih (s.performed p .ok)

@[simp] theorem performedAll_d (ps : List Prim) (s : State) : (s.performedAll ps).d = s.d := by
  induction ps generalizing s with
  | nil => rfl
  | cons p ps ih => exact ih (s.performed p .ok)

@[simp] theorem performedAll_phase (ps : List Prim) (s : State) : (s.performedAll ps).phase = s.phase := by
  induction ps generalizing s with
  | nil => rfl
  | cons p ps ih => exact ih (s.performed p .ok)

@[simp] theorem performedAll_result (ps : List Prim) (s : State) : (s.performedAll ps).result = s.result := by
  induction ps generalizing s with
  | nil => rfl
  | cons p ps ih => exact ih (s.performed p .ok)

@[simp] theorem performedAll_refused (ps : List Prim) (s : State) : (s.performedAll ps).refused = s.refused := by
  induction ps generalizing s with
  | nil => rfl
  | cons p ps ih => exact ih (s.performed p .ok)

@[simp] theorem performedAll_buf (ps : List Prim) (s : State) : (s.performedAll ps).buf = s.buf := by
  induction ps generalizing s with
  | nil => rfl
  | cons p ps ih => exact ih (s.performed p .ok)

@[simp] theorem performedAll_fill (ps : List Prim) (s : State) : (s.performedAll ps).fill = s.fill := by
  induction ps generalizing s with
  | nil => rfl
  | cons p ps ih => exact ih (s.performed p .ok)

@[simp] theorem performedAll_ctlInit (ps : List Prim) (s : State) : (s.performedAll ps).ctlInit = s.ctlInit := by
  induction ps generalizing s with
  | nil => rfl
  | cons p ps ih => exact ih (s.performed p .ok)

@[simp] theorem performedAll_todo (ps : List Prim) (s : State) : (s.performedAll ps).todo = s.todo := by
  induction ps generalizing s with
  | nil => rfl
  | cons p ps ih => exact ih (s.performed p .ok)

@[simp] theorem performedAll_hostOps (ps : List Prim) (s : State) : (s.performedAll ps).hostOps = s.hostOps := by
  induction ps generalizing s with
  | nil => rfl
  | cons p ps ih => exact ih (s.performed p .ok)

@[simp] theorem performedAll_stream (ps : List Prim) (s : State) : (s.performedAll ps).stream = s.stream := by
  induction ps generalizing s with
  | nil => rfl
  | cons p ps ih => exact ih (s.performed p .ok)

@[simp] theorem performedAll_responses (ps : List Prim) (s : State) : (s.performedAll ps).responses = s.responses := by
  induction ps generalizing s with
  | nil => rfl
  | cons p ps ih => exact ih (s.performed p .ok)

@[simp] theorem performedAll_refusals (ps : List Prim) (s : State) : (s.performedAll ps).refusals = s.refusals := by
  induction ps generalizing s with
  | nil => rfl
  | cons p ps ih => exact ih (s.performed p .ok)

@[simp] theorem performedAll_trace (ps : List Prim) (s : State) :
    (s.performedAll ps).trace = s.trace ++ okEvents ps := by
  induction ps generalizing s with
  | nil => simp [State.performedAll, okEvents]
  | cons p ps ih => rw [performedAll_cons, ih]; simp [okEvents]

@[simp] theorem performedAll_stepCount (ps : List Prim) (s : State) :
    (s.performedAll ps).stepCount = s.stepCount + ps.length := by
  induction ps generalizing s with
  | nil => rfl
  | cons p ps ih => rw [performedAll_cons, ih, State.performed_stepCount, List.length_cons]; omega

@[simp] theorem performedAll_rstLvl (ps : List Prim) (s : State) :
    (s.performedAll ps).rstLvl = ps.foldl (fun l p => p.rstAfter .ok l) s.rstLvl := by
  induction ps generalizing s with
  | nil => rfl
  | cons p ps ih => rw [performedAll_cons, ih]; rfl

@[simp] theorem performedAll_csLvl (ps : List Prim) (s : State) :
    (s.performedAll ps).csLvl = ps.foldl (fun l p => p.csAfter .ok l) s.csLvl := by
  induction ps generalizing s with
  | nil => rfl
  | cons p ps ih => rw [performedAll_cons, ih]; rfl

@[simp] theorem performedAll_dcLvl (ps : List Prim) (s : State) :
    (s.performedAll ps).dcLvl = ps.foldl (fun l p => p.dcAfter .ok l) s.dcLvl := by
  induction ps generalizing s with
  | nil => rfl
  | cons p ps ih => rw [performedAll_cons, ih]; rfl

/-! ### What a frame does to the lines -/

theorem frameCmd_rst (cfg : Config) (op : Byte) (ps : List Byte) (l : Line PinLevel) :
    (frameCmd cfg op ps).foldl (fun l p => p.rstAfter .ok l) l = l := by
  unfold frameCmd csPrims
  split <;> repeat' split
  all_goals rfl

theorem frameCmd_cs (cfg : Config) (op : Byte) (ps : List Byte) (l : Line Select) :
    (frameCmd cfg op ps).foldl (fun l p => p.csAfter .ok l) l =
      if cfg.variant = .discrete ∧ cfg.hasCs = true then .driven .desel else l := by
  unfold frameCmd csPrims
  split <;> repeat' split
  all_goals simp_all [Prim.csAfter, Line.after]

theorem frameCmd_dc (cfg : Config) (op : Byte) (ps : List Byte) (l : Line Ctx) :
    (frameCmd cfg op ps).foldl (fun l p => p.dcAfter .ok l) l =
      if cfg.variant = .discrete then .driven (if ps = [] then .cmd else .data) else l := by
  unfold frameCmd csPrims
  split <;> repeat' split
  all_goals simp_all [Prim.dcAfter, Line.after]

theorem frameData_rst (cfg : Config) (bs : List Byte) (l : Line PinLevel) :
    (frameData cfg bs).foldl (fun l p => p.rstAfter .ok l) l = l := by
  unfold frameData csPrims
  split <;> repeat' split
  all_goals rfl

theorem frameData_cs (cfg : Config) (bs : List Byte) (l : Line Select) :
    (frameData cfg bs).foldl (fun l p => p.csAfter .ok l) l =
      if cfg.variant = .discrete ∧ cfg.hasCs = true then .driven .desel else l := by
  unfold frameData csPrims
  split <;> repeat' split
  all_goals simp_all [Prim.csAfter, Line.after]

theorem frameData_dc (cfg : Config) (bs : List Byte) (l : Line Ctx) :
    (frameData cfg bs).foldl (fun l p => p.dcAfter .ok l) l =
      if cfg.variant = .discrete then .driven .data else l := by
  unfold frameData csPrims
  split <;> repeat' split
  all_goals simp_all [Prim.dcAfter, Line.after]

/-! ### What a frame carries -/

theorem okEvents_append (ps qs : List Prim) : okEvents (ps ++ qs) = okEvents ps ++ okEvents qs := by
  simp [okEvents]

theorem wire_append (a b : List Event) : wire (a ++ b) = wire a ++ wire b := by simp [wire]

theorem wire_frameCmd (cfg : Config) (op : Byte) (ps : List Byte) :
    wire (okEvents (frameCmd cfg op ps)) = (.cmd, op) :: ps.map fun b => (.data, b) := by
  unfold frameCmd csPrims
  split <;> repeat' split
  all_goals simp_all [wire, okEvents, Event.wire]

theorem wire_frameData (cfg : Config) (bs : List Byte) :
    wire (okEvents (frameData cfg bs)) = bs.map fun b => (.data, b) := by
  unfold frameData csPrims
  split <;> repeat' split
  all_goals simp_all [wire, okEvents, Event.wire]

/-! ### Runs of work -/

/-- A stretch of work that reaches an event at every entry, all its primitives answered OK. -/
theorem run_work {ws r : List MicroOp} {s : State} (hb : s.phase = .busy) (ht : s.todo = ws ++ r)
    (hne : ws ≠ []) (hl : ∀ m ∈ ws, m.loud = true) (ha : s.AnswersOk (workPrims s.cfg ws)) :
    run (workPrims s.cfg ws).length s = settle r (s.performedAll (workPrims s.cfg ws)) := by
  induction ws generalizing s with
  | nil => exact absurd rfl hne
  | cons m ws ih =>
    rcases ws with _ | ⟨m', ws⟩
    · exact run_entry hb ht (hl m (by simp)) ha
    · have hsplit : workPrims s.cfg (m :: m' :: ws) = workPrims s.cfg [m] ++ workPrims s.cfg (m' :: ws) :=
        workPrims_append s.cfg [m] (m' :: ws)
      rw [hsplit] at ha
      have h1 := run_entry hb ht (hl m (by simp)) (AnswersOk.append_left ha)
      replace h1 := h1.trans (settle_loud (hl m' (by simp)) (ws ++ r) _)
      have h2 := ih (s := (s.performedAll (workPrims s.cfg [m])).withTodo (m' :: (ws ++ r)))
        (by simpa using hb) rfl (by simp) (fun x hx => hl x (by simp [hx]))
        (by rw [State.withTodo_cfg, performedAll_cfg]; exact AnswersOk.append_right ha)
      rw [State.withTodo_cfg, performedAll_cfg, performedAll_withTodo, settle_withTodo] at h2
      rw [hsplit, List.length_append, run_add h1, h2, performedAll_append]

/-! The stream phase. -/

/-- A flush of a staging buffer that is not empty sends its bytes as one data frame and empties it (R125). -/
theorem flush_run {r : List MicroOp} {u : State} {bs : List Byte} (hb : u.phase = .busy) (hf : u.fill ≠ 0)
    (hs : u.stagedBytes = some bs) (ha : u.AnswersOk (frameData u.cfg bs)) :
    ∃ v, settle (.flush :: r) u = .next v ∧
      run (frameData u.cfg bs).length v = settle r (u.performedAll (frameData u.cfg bs)).clearFill := by
  have clear : ∀ (ps : List Prim) (u : State), u.clearFill.performedAll ps = (u.performedAll ps).clearFill := by
    intro ps
    induction ps with
    | nil => intro u; rfl
    | cons p ps ih => intro u; exact ih (u.performed p .ok)
  refine ⟨_, by simp only [settle, hf, hs, if_false]; rfl, ?_⟩
  have := run_prims (r := .clearFill :: r) (ps := frameData u.cfg bs)
    (s := u.withTodo ((frameData u.cfg bs).map MicroOp.prim ++ .clearFill :: r)) hb rfl (frameData_ne_nil _ _)
    (AnswersOk.congr (s := u) rfl rfl _ ha)
  refine Eq.trans this ?_
  rw [performedAll_withTodo, settle_withTodo]; rfl

/-- The fuel of `chunks` does not matter once it reaches the length. -/
theorem chunks_fuel (k : Nat) (hk : 1 ≤ k) : ∀ (n m : Nat) (l : List Word), l.length ≤ n → l.length ≤ m →
    chunks k n l = chunks k m l := by
  intro n
  induction n with
  | zero => intro m l h1 h2; cases l <;> simp at h1; cases m <;> rfl
  | succ n ih =>
    intro m l h1 h2
    rcases l with _ | ⟨c, cs⟩
    · cases m <;> rfl
    · rcases m with _ | m
      · simp at h2
      · simp only [chunks]
        congr 1
        apply ih <;> simp at h1 h2 ⊢ <;> omega

/-- The data frames of a stream that begins with a full buffer (R125). -/
theorem streamPrims_full (cfg : Config) (ws cs : List Word) (h : ws.length = cfg.chunk) (hk : 1 ≤ cfg.chunk) :
    streamPrims cfg (ws ++ cs) = frameData cfg (ws.flatMap be16) ++ streamPrims cfg cs := by
  rcases ws with _ | ⟨w, ws⟩
  · simp at h; omega
  · unfold streamPrims
    have hc : chunks cfg.chunk (w :: ws ++ cs).length (w :: ws ++ cs) =
        (w :: ws) :: chunks cfg.chunk (ws ++ cs).length cs := by
      simp only [List.cons_append, List.length_cons, chunks]
      rw [← h, show w :: (ws ++ cs) = (w :: ws) ++ cs from rfl, List.take_left, List.drop_left]
    rw [hc, List.flatMap_cons, chunks_fuel _ hk _ cs.length cs (by simp) (by simp)]

/-- The data frame of a stream that fits the buffer (R125). -/
theorem streamPrims_last (cfg : Config) (ws : List Word) (h : ws.length ≤ cfg.chunk) (h0 : ws ≠ []) :
    streamPrims cfg ws = frameData cfg (ws.flatMap be16) := by
  rcases ws with _ | ⟨w, ws⟩
  · simp at h0
  · unfold streamPrims
    have hc : chunks cfg.chunk (w :: ws).length (w :: ws) = [w :: ws] := by
      simp only [List.length_cons, chunks]
      rw [List.take_of_length_le h, List.drop_of_length_le h]
      cases ws.length <;> rfl
    rw [hc]; simp

end Sys2Proof.Machine
end

