-- ==== Sys2Proof/Tests/Slice0.lean ====
section
/-! SUPPORT. The model's own tests. Expected values come from spec/ (95_test_vectors.md, or the rule named); nothing
here is a statement for the provers. The second half holds a witness for the hypotheses of every obligation. -/

namespace Sys2Proof.Tests

open Sys2Proof Sys2Proof.Machine

/-! ### WellFormed: the checks refuse ill-formed terms -/

theorem test_wf_madctl_refuses_other_bytes : (Instr.madctl 0x01).wf = false := by decide
theorem test_wf_colmod_refuses_other_bytes : (Instr.colmod 0x05).wf = false := by decide
theorem test_wf_admits_what_the_block_sends :
    ([.madctl 0x00, .madctl 0x60, .madctl 0xC0, .madctl 0xA0, .colmod 0x55].all Instr.wf) = true := by decide

/-! ### Decode: words written out from R70 to R86; the table of 95_test_vectors.md L2 -/

/-- REQ = RSV 00, ORI 00, OP 0001. -/
theorem test_decode_init : decodeTableWord 8 0b00000001 = some (.init 0 0 0 0) := by decide
theorem test_decode_hard_reset : decodeTableWord 8 0b00000010 = some (.hardReset 0 0 0 0) := by decide
theorem test_decode_orientations :
    (decodeTableWord 8 0b00000011, decodeDesc 0x130000000000000000, decodeTableWord 8 0b00100011,
      decodeTableWord 8 0b00110011) =
    (some (.setOrientation .portrait 0 0 0 0), .ok (.setOrientation .landscape 0 0 0 0),
      some (.setOrientation .portraitSwapped 0 0 0 0), some (.setOrientation .landscapeSwapped 0 0 0 0)) := by decide
theorem test_decode_set_pixel : decodeDesc 0x0400050007001FABCD = .ok (.setPixel 5 7 0x001F 0xABCD) := by decide
theorem test_decode_set_pixels : decodeDesc 0x050001000200030004 = .ok (.setPixels 1 2 3 4) := by decide
theorem test_decode_pixel_rows : (decodeTableWord 8 0b00000100, decodeTableWord 8 0b00000101) =
    (some (.setPixel 0 0 0 0), some (.setPixels 0 0 0 0)) := by decide

/-- The reserved codes of 95_test_vectors.md L2, each by its name. -/
theorem test_decode_reserved :
    [0x00, 0x06, 0x0F, 0x11, 0x14, 0x43, 0xC5].map (fun r : Byte => decodeReq r 0 0 0 0) =
    [.error .reservedOp, .error .reservedOp, .error .reservedOp, .error .reservedOri, .error .reservedOri,
     .error .reservedBits, .error .reservedBits] := by decide

/-- The nine command bytes of the table that are no other row's byte, and the two that are (notes/assumptions/3.md). -/
theorem test_decode_commands :
    [0x11, 0x20, 0x36, 0x3A, 0x21, 0x13, 0x29, 0x2A, 0x2B, 0x2C].map (decodeTableWord 8) =
    [some .slpout, some .invoff, some (.madctl 0), some (.colmod 0), some .invon, some .noron, some .dispon,
     some (.caset 0 0), some (.raset 0 0), some .ramwr] := by decide
theorem test_decode_swreset : decodeFrame Opcodes.default [0x01] = .ok (.swreset, []) := by decide

/-- V of R153: the parameters are big-endian words. -/
theorem test_decode_caset_parameters :
    decodeTableWord 40 0x807F02012A = some (.caset 0x0102 0x7F80) := by decide
/-- The example of R154. -/
theorem test_decode_raset_parameters :
    decodeFrame Opcodes.default [0x2B, 0x00, 0x00, 0x00, 0x9F] = .ok (.raset 0 159, []) := by decide
theorem test_decode_madctl_parameter : decodeTableWord 16 0xC036 = some (.madctl 0xC0) := by decide
theorem test_decode_colmod_parameter : decodeTableWord 16 0x553A = some (.colmod 0x55) := by decide
theorem test_decode_truncated : decodeFrame Opcodes.default [0x2A, 0x01, 0x02] = .error .truncated := by decide
theorem test_decode_unknown_opcode : decodeFrame Opcodes.default [0x28] = .error .unknownOpcode := by decide

/-- Colour tokens of 95_test_vectors.md L2. -/
theorem test_tokens : ([0x0F800, 0x10000, 0x1F800] : List Token).map tokenItem =
    [.word 0xF800, .endOfStream, .endOfStream] := by decide

/-- Byte splitting of 95_test_vectors.md L2. -/
theorem test_be16 : ([0x0000, 0x00FF, 0xFF00, 0xABCD, 0xFFFF] : List Word).map be16 =
    [[0x00, 0x00], [0x00, 0xFF], [0xFF, 0x00], [0xAB, 0xCD], [0xFF, 0xFF]] := by decide

/-- A stream of listed tokens, after which the host answers no Pull. -/
def given (tokens : List Token) : TokenStream := ⟨tokens, .unanswered⟩

/-! ### Assembler (R89), with the descriptors of 95_test_vectors.md L3 -/

theorem test_assemble_set_pixel :
    (assembleLine "SET_PIXEL 5, 7, 0x001F".toList).map AsmLine.hostOp =
    some (.request 0x0400050007001F0000 (given [])) := by decide
theorem test_assemble_orientation :
    (assembleLine "SET_ORIENTATION Landscape".toList).map AsmLine.hostOp =
    some (.request 0x130000000000000000 (given [])) := by decide
/-- P2's second line; 123 and 125 are the codes of the braces. -/
theorem test_assemble_set_pixels :
    (assembleLine ("SET_PIXELS 0, 0, 1, 1, ".toList ++ [Char.ofNat 123] ++ "0x1111, 0x2222, 0x3333".toList ++
      [Char.ofNat 125])).map AsmLine.hostOp =
    some (.request 0x050000000000010001 (given [0x01111, 0x02222, 0x03333, 0x10000])) := by decide
theorem test_assemble_refuses_a_17_bit_number : assembleLine "SET_PIXEL 65536, 0, 0".toList = none := by decide

/-! ### Small states -/

/-- A freshly built block whose environment's next answers are given. -/
def built (cfg : Config) (answers : List Answer) : State := { State.construct cfg with answers := answers }

/-- Sixty answers, all OK. -/
def allOk : List Answer := List.replicate 60 .ok

/-- The unified bus of the vectors, and the two discrete ones. -/
def unified : Config := Config.default
def withCs : Config := { Config.default with variant := .discrete, hasCs := true }
def noCs : Config := { Config.default with variant := .discrete }
def noDelay : Config := { Config.default with hasDelay := false }
def chunk2 : Config := { Config.default with chunk := 2 }

/-- A block that is to issue a controller command of a running request, with other work behind it. -/
def issuing (cfg : Config) (i : Instr) (rest : List MicroOp) (answers : List Answer) : State :=
  { built cfg answers with phase := .busy, todo := .cmd i :: rest }

/-- A block that has the given work to do. -/
def busyWith (cfg : Config) (todo : List MicroOp) (answers : List Answer) : State :=
  { built cfg answers with phase := .busy, todo := todo }

/-- A block that is presented with one request. -/
def presented (cfg : Config) (desc : Desc) (tokens : List Token) (answers : List Answer) : State :=
  { built cfg answers with hostOps := [.request desc (given tokens)] }

/-- What an outcome leaves, if it is a next state. -/
def view {α : Type} (f : State → α) : Outcome → Option α
  | .next s => some (f s)
  | .fault _ => none
  | .refused _ => none

/-! ### One step of each instruction -/

/-- P1, request 1: accepted, no event, the first primitive is the reset line's. -/
theorem test_init_accepted :
    view (fun s => (s.phase, s.req, s.trace, s.todo.head?)) (step (presented unified 0x010000000000000000 [] [])) =
    some (.busy, 0x01, [], some (.prim (.pinRst .high))) := by decide

/-- V-IN7. -/
theorem test_init_refused_without_delay :
    view (fun s => (s.refused, s.trace, s.result)) (step (presented noDelay 0x010000000000000000 [] [])) =
    some (true, [], none) := by decide

/-- HARD_RESET after a successful INIT clears CTL_INIT (R110). -/
theorem test_hard_reset_clears_ctl_init :
    view (fun s => (s.ctlInit, s.phase, s.stepCount)) (exec (.hardReset 1 2 3 4) { built unified [] with ctlInit := true }) =
    some (false, .busy, 0) := by decide

/-- V-HR2: the first drive fails. -/
theorem test_hard_reset_first_drive_fails :
    view (fun s => (s.trace, s.result, s.rstLvl, s.phase, s.responses))
      (step (busyWith unified hardResetSeq [.fail])) =
    some ([⟨.pinRst .high, .fail⟩], some .errPin, .unknown, .idle, [.errPin]) := by decide

/-- W1, Landscape: the frame carries 0x60. -/
theorem test_set_orientation_accepted :
    view (fun s => (s.todo, s.ctlInit, s.fill)) (step (presented unified 0x130000000000000000 [] [])) =
    some ([.cmd (.madctl 0x60)], false, 0) := by decide

/-- P1, request 3: latches, and the work of R128. -/
theorem test_set_pixel_accepted :
    view (fun s => (s.a, s.b, s.c, s.d, s.todo)) (step (presented unified 0x0400050007001F0000 [] [])) =
    some (5, 7, 0x001F, 0, [.cmd (.caset 5 5), .cmd (.raset 7 7), .cmd .ramwr, .stagePixel, .flush]) := by decide

/-- R128: the colour of latch C is staged with the RAMWR frame's end, and the data frame comes next. -/
theorem test_set_pixel_stages_its_colour :
    view (fun s => (s.buf, s.fill, s.todo))
      (step { busyWith unified [.cmd .ramwr, .stagePixel, .flush] [.ok] with c := 0x001F }) =
    some ([(0, 0x00), (1, 0x1F)], 1, [.prim (.send .data [0x00, 0x1F]), .clearFill]) := by decide

/-- V-SP6: a reversed, out-of-range window is sent unchanged. -/
theorem test_set_pixels_accepted :
    view (fun s => s.todo) (exec (.setPixels 0x0100 0x0005 0x0001 0x0002) (built unified [])) =
    some [.cmd (.caset 0x0100 0x0001), .cmd (.raset 0x0005 0x0002), .cmd .ramwr, .clearFill, .pull] := by decide

/-- V-SP5: END as the first token sends no data frame and completes. -/
theorem test_set_pixels_empty_stream :
    view (fun s => (s.trace, s.result, s.phase, s.stepCount, s.stream))
      (step { busyWith unified [.pull] [] with stepCount := 5, stream := given [0x10000] }) =
    some ([], some .ok, .idle, 6, given []) := by decide

/-- SWRESET of V-IN2: the frame selects the device first. -/
theorem test_swreset_selects :
    view (fun s => (s.trace, s.csLvl, s.todo)) (step (issuing withCs .swreset [.prim (.wait 150000)] [.ok])) =
    some ([⟨.pinCs .sel, .ok⟩], .driven .sel,
      [.prim (.pinDc .cmd), .prim (.send .cmd [0x01]), .prim (.pinCs .desel), .prim (.wait 150000)]) := by decide

/-- The framing failure of 95_test_vectors.md: PinCs(SEL) fails. -/
theorem test_swreset_select_fails :
    view (fun s => (s.trace, s.result, s.csLvl, s.todo)) (step (issuing withCs .swreset [.prim (.wait 150000)] [.fail])) =
    some ([⟨.pinCs .sel, .fail⟩], some .errPin, .unknown, []) := by decide

/-- SLPOUT of V-IN1 events 9 and 10. -/
theorem test_slpout :
    view (fun s => (s.trace, s.todo)) (step (issuing unified .slpout [.prim (.wait 10000)] [.ok])) =
    some ([⟨.send .cmd [0x11], .ok⟩], [.prim (.wait 10000)]) := by decide

/-- V-IN4, step 3 opcode. -/
theorem test_invoff_fails :
    view (fun s => (s.trace, s.result, s.ctlInit)) (step (issuing unified .invoff [] [.fail])) =
    some ([⟨.send .cmd [0x20], .fail⟩], some .errTransport, false) := by decide

/-- W1, PortraitSwapped: `C:36` now, `D:C0` next. -/
theorem test_madctl :
    view (fun s => (s.trace, s.todo)) (step (issuing unified (.madctl 0xC0) [] [.ok])) =
    some ([⟨.send .cmd [0x36], .ok⟩], [.prim (.send .data [0xC0])]) := by decide

/-- COLMOD on the discrete bus without chip-select: V-IN3 events 19 to 22. -/
theorem test_colmod :
    view (fun s => (s.trace, s.dcLvl, s.todo)) (step (issuing noCs (.colmod 0x55) [] [.ok])) =
    some ([⟨.pinDc .cmd, .ok⟩], .driven .cmd,
      [.prim (.send .cmd [0x3A]), .prim (.pinDc .data), .prim (.send .data [0x55])]) := by decide

theorem test_invon :
    view (fun s => s.trace) (step (issuing unified .invon [.prim (.wait 10000)] [.ok])) =
    some [⟨.send .cmd [0x21], .ok⟩] := by decide

theorem test_noron :
    view (fun s => s.trace) (step (issuing unified .noron [.prim (.wait 10000)] [.ok])) =
    some [⟨.send .cmd [0x13], .ok⟩] := by decide

theorem test_dispon :
    view (fun s => s.trace) (step (issuing unified .dispon [.prim (.wait 10000)] [.ok])) =
    some [⟨.send .cmd [0x29], .ok⟩] := by decide

/-- The last wait of INIT: CTL_INIT rises and the request completes with it (V-IN1). -/
theorem test_init_completes_with_its_last_wait :
    view (fun s => (s.ctlInit, s.result, s.phase)) (step (busyWith unified [.prim (.wait 10000), .markInit] [])) =
    some (true, some .ok, .idle) := by decide

/-- W5. -/
theorem test_caset :
    view (fun s => (s.trace, s.todo)) (step (issuing unified (.caset 0x0102 0x0506) [] [.ok])) =
    some ([⟨.send .cmd [0x2A], .ok⟩], [.prim (.send .data [0x01, 0x02, 0x05, 0x06])]) := by decide

/-- W5. -/
theorem test_raset :
    view (fun s => (s.trace, s.todo)) (step (issuing unified (.raset 0x0304 0x0708) [] [.ok])) =
    some ([⟨.send .cmd [0x2B], .ok⟩], [.prim (.send .data [0x03, 0x04, 0x07, 0x08])]) := by decide

/-- V-SP7: the RAMWR frame has no data part. -/
theorem test_ramwr :
    view (fun s => s.todo) (step (issuing withCs .ramwr [.clearFill, .pull] [.ok])) =
    some [.prim (.pinDc .cmd), .prim (.send .cmd [0x2C]), .prim (.pinCs .desel), .clearFill, .pull] := by decide

/-! ### The stream phase, refusals, reads of RESULT -/

/-- V-SP2: the second colour fills a buffer of two words, which is flushed. -/
theorem test_pull_fills_the_buffer :
    view (fun s => (s.fill, s.todo, s.trace))
      (step { busyWith chunk2 [.pull] [] with
        stream := given [0x007E0, 0x10000], fill := 1, buf := [(0, 0xF8), (1, 0x00)] }) =
    some (2, [.prim (.send .data [0xF8, 0x00, 0x07, 0xE0]), .clearFill, .pull], []) := by decide

/-- R125, I17: the listed tokens come first, and then the colours without end. -/
theorem test_pull_order :
    (⟨[0x1F800], .endless 3⟩ : TokenStream).pull = some (0x1F800, ⟨[], .endless 3⟩) ∧
    (⟨[], .endless 3⟩ : TokenStream).pull = some (wordToken (Config.freeColour 3), ⟨[], .endless 4⟩) := ⟨rfl, rfl⟩

/-- V-SP8: the second data transaction fails; the staged words are discarded. -/
theorem test_flush_fails :
    view (fun s => (s.trace, s.result, s.fill, s.stepCount, s.stream))
      (step { busyWith chunk2 [.prim (.send .data [0x00, 0x03, 0x00, 0x04]), .clearFill, .pull] [.fail] with
        fill := 2, stepCount := 10, stream := given [0x00005, 0x10000] }) =
    some ([⟨.send .data [0x00, 0x03, 0x00, 0x04], .fail⟩], some .errTransport, 0, 11,
      given [0x00005, 0x10000]) := by decide

/-- P4, request 2: OP = 4 with ORI = 1. -/
theorem test_reserved_request_refused :
    view (fun s => (s.refused, s.trace, s.req, s.phase)) (step (presented noCs 0x140001000100000000 [] [])) =
    some (true, [], 0, .idle) := by decide

/-- A read of RESULT right after construction is refused. -/
theorem test_result_read_refused :
    view (fun s => (s.refused, s.responses)) (step { built unified [] with hostOps := [.readResult] }) =
    some (true, []) := by decide

theorem test_result_codes : ([.ok, .errTransport, .errPin] : List Result).map Result.code = [0, 1, 2] := by decide

/-- R176: two bytes of a failed four-byte transaction arrived. -/
theorem test_failed_transaction_prefix :
    received (fun _ => 2) [⟨.send .data [0x00, 0x03, 0x00, 0x04], .fail⟩] = [(.data, 0x00), (.data, 0x03)] := by decide

/-! ### The host's interface -/

/-- A placed request is the next thing an idle block takes. -/
theorem test_placed_request :
    view (fun s => (s.req, s.phase)) (step (State.reset.withFetchWord 8 0x02)) = some (0x02, .busy) := by decide

/-- A placed command's first primitive, with an answer given. -/
theorem test_placed_command :
    view (fun s => s.trace) (step ({ State.reset with answers := [.ok] }.withFetchWord 8 0x2C)) =
    some [⟨.send .cmd [0x2C], .ok⟩] := by decide

theorem test_reset_is_construction : State.reset = State.construct Config.default := by decide

/-! ### Witnesses: the hypotheses of every obligation can be met -/

theorem witness_LegalRequestCodes :
    (0x060000000000000000 : Desc).toNat / 2 ^ 64 % 16 = 6 ∧
    (presented unified 0x060000000000000000 [] []).phase = .idle ∧
    (presented unified 0x060000000000000000 [] []).hostOps =
      .request 0x060000000000000000 (given []) :: [] := by decide

theorem witness_DecodeOfEncode :
    Opcodes.default.Distinct ∧
    ([.init 1 2 3 4, .hardReset 1 2 3 4, .setOrientation .landscape 1 2 3 4, .setPixel 1 2 3 4, .setPixels 1 2 3 4,
      .swreset, .slpout, .invoff, .madctl 0xA0, .colmod 0x55, .invon, .noron, .dispon, .caset 1 2, .raset 1 2,
      .ramwr].all Instr.wf) = true := by decide

theorem witness_EncodeOfDecodedDescriptor :
    decodeDesc 0x330001FFFF80007FFF = .ok (.setOrientation .landscapeSwapped 1 0xFFFF 0x8000 0x7FFF) := by decide

/-- Both clauses, where they meet. -/
theorem witness_TokensAreRead : (0x0FFFF : Token).toNat < 65536 ∧ 65536 ≤ (0x10000 : Token).toNat := by decide

theorem witness_StepExecutesThePresentedRequest :
    (presented unified 0x050001000200030004 [0x10000] []).phase = .idle ∧
    (presented unified 0x050001000200030004 [0x10000] []).hostOps =
      .request 0x050001000200030004 (given [0x10000]) :: [] ∧
    decodeDesc 0x050001000200030004 = .ok (.setPixels 1 2 3 4) := by decide

theorem witness_StepExecutesTheIssuedCommand :
    (issuing unified .ramwr [.clearFill, .pull] allOk).phase = .busy ∧
    (issuing unified .ramwr [.clearFill, .pull] allOk).todo = .cmd .ramwr :: [.clearFill, .pull] := by decide

theorem witness_BusyBlockAcceptsNothing :
    (issuing unified .ramwr [] allOk).phase = .busy ∧ (Instr.hardReset 0 0 0 0).port = .request ∧
    ∃ t, step (issuing unified .ramwr [] allOk) = .next t := ⟨rfl, rfl, _, rfl⟩

/-- Each clause has its own state. -/
theorem witness_TheBlockWaits :
    ((built unified []).phase = .idle ∧ (built unified []).hostOps = []) ∧
    ((busyWith unified [.pull] []).phase = .busy ∧ (busyWith unified [.pull] []).todo = .pull :: [] ∧
      (busyWith unified [.pull] []).stream = ⟨[], .unanswered⟩) := by decide

/-- A step that performs a primitive, and one that accepts a request: the steps the statements over every step speak of. -/
theorem witness_StepAppendsAtMostOneEvent :
    (∃ t, step (issuing withCs .ramwr [] allOk) = .next t) ∧
    ∃ t, step (presented unified 0x020000000000000000 [] []) = .next t := ⟨⟨_, rfl⟩, _, rfl⟩

theorem witness_StepCountsPrimitives :
    (∃ t, step { busyWith unified [.pull] [] with stream := given [0x10000] } = .next t) ∧
    ∃ t, step { presented unified 0x020000000000000000 [] [] with stepCount := 7 } = .next t := ⟨⟨_, rfl⟩, _, rfl⟩

theorem witness_ConfigurationIsReadOnly : ∃ t, step (issuing noCs .ramwr [] allOk) = .next t := ⟨_, rfl⟩

theorem witness_LatchesAreWrittenAtAcceptanceOnly :
    ∃ t, step (presented unified 0x050001000200030004 [] []) = .next t ∧ t.req = 0x05 ∧ t.d = 4 := ⟨_, rfl, by decide⟩

/-- One state for each clause: already refused, and about to be. -/
theorem witness_RefusedIsSticky :
    (∃ t, step { presented unified 0x020000000000000000 [] [] with refused := true } = .next t) ∧
    ∃ t, step (presented unified 0x000000000000000000 [] []) = .next t ∧
      (presented unified 0x000000000000000000 [] []).refused = false ∧ t.refused = true :=
  ⟨⟨_, rfl⟩, _, rfl, by decide⟩

/-- One state for each clause. -/
theorem witness_ResultIsReadAfterCompletionOnly :
    ({ built unified [] with hostOps := [.readResult], result := some .errPin }.phase = .idle ∧
      { built unified [] with hostOps := [.readResult], result := some .errPin }.result = some .errPin) ∧
    ({ built unified [] with hostOps := [.readResult] }.phase = .idle ∧
      { built unified [] with hostOps := [.readResult] }.result = none) := by decide

theorem witness_DrawingRequestsAreAccepted : (built withCs []).phase = .idle := by decide

theorem witness_TimedRequestsAreAccepted :
    (built unified []).phase = .idle ∧ (built unified []).cfg.hasDelay = true := by decide

/-- Both instructions of the disjunction. -/
theorem witness_NoDelayProviderRefuses :
    (built noDelay []).phase = .idle ∧ (built noDelay []).cfg.hasDelay = false ∧
    (Instr.hardReset 1 2 3 4 = .hardReset 1 2 3 4 ∨ Instr.hardReset 1 2 3 4 = .init 1 2 3 4) ∧
    (Instr.init 1 2 3 4 = .hardReset 1 2 3 4 ∨ Instr.init 1 2 3 4 = .init 1 2 3 4) := by decide

theorem witness_HardResetRunsToItsEnd :
    (built unified allOk).phase = .idle ∧ (built unified allOk).cfg.hasDelay = true ∧
    (built unified allOk).AnswersOk hardResetPrims := by decide

/-- All three busses. -/
theorem witness_InitRunsToItsEnd :
    ∀ cfg ∈ [unified, withCs, noCs], (built cfg allOk).phase = .idle ∧ (built cfg allOk).cfg.hasDelay = true ∧
      (built cfg allOk).AnswersOk (initPrims cfg) := by decide

theorem witness_InitEmitsTheEightCommands :
    ∀ cfg ∈ [unified, withCs, noCs], (built cfg allOk).phase = .idle ∧ (built cfg allOk).cfg.hasDelay = true ∧
      (built cfg allOk).cfg.opc.Distinct ∧ (built cfg allOk).AnswersOk (initPrims cfg) := by decide

/-- V-IN4, step 1 opcode: the fourth fallible primitive fails. -/
theorem witness_InitAbortsAtTheFailingPrimitive :
    (built unified [.ok, .ok, .ok, .fail]).phase = .idle ∧
    (built unified [.ok, .ok, .ok, .fail]).cfg.hasDelay = true ∧
    initPrims (built unified [.ok, .ok, .ok, .fail]).cfg =
      hardResetPrims ++ .send .cmd [0x01] :: (initPrims unified).drop 7 ∧
    (Prim.send .cmd [0x01]).fallible = true ∧
    (built unified [.ok, .ok, .ok, .fail]).AnswersOk hardResetPrims ∧
    (built unified [.ok, .ok, .ok, .fail]).answerAt (hardResetPrims.countP Prim.fallible) = .fail := by decide

/-- The other end of the range: the first primitive of all fails. -/
theorem witness_InitAbortsAtItsFirstPrimitive :
    initPrims (built unified [.fail]).cfg = [] ++ .pinRst .high :: (initPrims unified).drop 1 ∧
    (Prim.pinRst .high).fallible = true ∧ (built unified [.fail]).AnswersOk [] ∧
    (built unified [.fail]).answerAt (([] : List Prim).countP Prim.fallible) = .fail := by decide

theorem witness_SetOrientationRunsToItsEnd :
    ∀ cfg ∈ [unified, withCs, noCs], (built cfg allOk).phase = .idle ∧
      (built cfg allOk).AnswersOk (frameCmd cfg cfg.opc.madctl [0xC0]) := by decide

theorem witness_SetPixelRunsToItsEnd :
    ∀ cfg ∈ [unified, withCs, noCs], (built cfg allOk).phase = .idle ∧ 1 ≤ (built cfg allOk).cfg.chunk ∧
      (built cfg allOk).AnswersOk (windowPrims cfg 5 7 5 7 ++ frameData cfg (be16 0x001F)) := by decide

/-- Three colours in a buffer of two words, and no colour at all. -/
theorem witness_SetPixelsRunsToItsEnd :
    ∀ cs ∈ ([[0x1111, 0x2222, 0x3333], []] : List (List Word)),
      let s := { built chunk2 allOk with stream := given (cs.map wordToken ++ [0x10000]) }
      s.phase = .idle ∧ 1 ≤ s.cfg.chunk ∧ s.stream.tokens = cs.map wordToken ++ 0x10000 :: [] ∧
      tokenItem 0x10000 = .endOfStream ∧
      s.AnswersOk (windowPrims s.cfg 0 0 1 1 ++ streamPrims s.cfg cs) := by decide

theorem witness_ChunkingDoesNotChangeTheWire :
    let s := { built chunk2 allOk with stream := given [0x01111, 0x02222, 0x03333, 0x1F800] }
    s.phase = .idle ∧ 1 ≤ s.cfg.chunk ∧
    s.stream.tokens = ([0x1111, 0x2222, 0x3333] : List Word).map wordToken ++ 0x1F800 :: [] ∧
    tokenItem 0x1F800 = .endOfStream ∧
    s.AnswersOk (windowPrims s.cfg 0 0 1 1 ++ streamPrims s.cfg [0x1111, 0x2222, 0x3333]) := by decide

theorem witness_EmptyStreamSendsNoDataFrame :
    let s := { built withCs allOk with stream := given [0x10000] }
    s.phase = .idle ∧ s.stream.tokens = 0x10000 :: [] ∧ tokenItem 0x10000 = .endOfStream ∧ 1 ≤ s.cfg.chunk ∧
    s.AnswersOk (windowPrims s.cfg 10 20 12 20) := by decide

theorem witness_SetPixelIsSetPixelsOfOneColour :
    let s := built withCs allOk
    let s' := { built withCs allOk with stream := given [wordToken 0x001F, endToken] }
    s.phase = .idle ∧ s'.phase = .idle ∧ s'.cfg = s.cfg ∧ 1 ≤ s.cfg.chunk ∧
    s'.stream.tokens = wordToken 0x001F :: endToken :: [] ∧
    s.AnswersOk (windowPrims s.cfg 5 7 5 7 ++ frameData s.cfg (be16 0x001F)) ∧
    s'.AnswersOk (windowPrims s.cfg 5 7 5 7 ++ frameData s.cfg (be16 0x001F)) := by decide

theorem witness_FramesOfTheThreeBusses : withCs.hasCs = true := by decide

/-- A busy block with BUF empty meets the invariant if its work does. -/
theorem busyWith_inv {cfg : Config} {todo : List MicroOp} (answers : List Answer) (stream : TokenStream) (req : Byte)
    (hc : cfg.Wf) (hne : todo ≠ []) (hw : ∀ m ∈ todo, Safety.workShaped cfg m)
    (hf : Safety.workFits cfg.chunk 0 todo) (hm : .markInit ∈ todo → reqOp req = 1#4) :
    Safety.Inv { busyWith cfg todo answers with stream := stream, req := req } where
  cfg := hc
  bufWf := .nil
  bufRange := fun _ h => absurd h List.not_mem_nil
  fill := Nat.zero_le _
  staged := fun _ h => absurd h (Nat.not_lt_zero _)
  phase := by simpa [busyWith] using hne
  work := hw
  fits := hf
  mark := hm
  trace := fun _ h => absurd h List.not_mem_nil
  cs := fun _ => rfl
  dc := fun _ => rfl
  refused := by simp [busyWith, built, State.construct]

/-- A block that issues a well-formed controller command meets the invariant. -/
theorem issuing_inv (i : Instr) (hi : i.port = .bus) (hw : i.wf = true) (answers : List Answer) :
    Safety.Inv (issuing withCs i [] answers) :=
  busyWith_inv answers (given []) 0 (by decide) (by simp) (by simp [Safety.workShaped, hi, hw]) rfl (by simp)

/-- Every one of the eleven commands, with the hypotheses on the work and the answers. -/
theorem witness_CommandsRunTheirFrames :
    ∀ x ∈ ([(.swreset, 0x01, []), (.slpout, 0x11, []), (.invoff, 0x20, []), (.madctl 0xA0, 0x36, [0xA0]),
        (.colmod 0x55, 0x3A, [0x55]), (.invon, 0x21, []), (.noron, 0x13, []), (.dispon, 0x29, []),
        (.caset 1 0xFFFF, 0x2A, [0, 1, 0xFF, 0xFF]), (.raset 0 159, 0x2B, [0, 0, 0, 0x9F]),
        (.ramwr, 0x2C, [])] : List (Instr × Byte × List Byte)),
      Safety.Inv (issuing withCs x.1 [] allOk) ∧ (issuing withCs x.1 [] allOk).phase = .busy ∧
      (issuing withCs x.1 [] allOk).todo = .cmd x.1 :: [] ∧
      (issuing withCs x.1 [] allOk).AnswersOk (frameCmd withCs x.2.1 x.2.2) := by
  intro x hx
  have hp : x.1.port = .bus ∧ x.1.wf = true := by revert x; decide
  refine ⟨issuing_inv x.1 hp.1 hp.2 _, rfl, rfl, ?_⟩
  revert x
  decide

theorem witness_CommandAbortsAtItsFirstPrimitive :
    (Instr.ramwr).port = .bus ∧ (issuing withCs .ramwr [] [.fail]).nextAnswer = .fail := by decide

/-- The clause of the request that goes on, and the one of UNIFIED. -/
theorem witness_CommandFrame :
    (Instr.ramwr).port = .bus ∧
    (∃ t, exec .ramwr (busyWith withCs [.clearFill, .pull] allOk) = .next t ∧ t.phase = .busy) ∧
    ∃ t, exec .swreset (busyWith unified [.prim (.wait 150000)] allOk) = .next t ∧ t.phase = .busy :=
  ⟨rfl, ⟨_, rfl, rfl⟩, _, rfl, rfl⟩

/-- Each kind of primitive that can fail. -/
theorem witness_FailingPrimitiveAborts :
    ∀ p ∈ ([.pinRst .low, .pinCs .desel, .pinDc .data, .send .cmd [0x2C], .send .data [0x55]] : List Prim),
      (busyWith withCs [.prim p, .pull] [.fail]).phase = .busy ∧
      (busyWith withCs [.prim p, .pull] [.fail]).todo = .prim p :: [.pull] ∧ p.fallible = true ∧
      (busyWith withCs [.prim p, .pull] [.fail]).nextAnswer = .fail := by decide

/-- Its second part: steps that perform a failing primitive, one of work and one that begins a frame. -/
theorem witness_FailingPrimitiveAborts_steps :
    (∃ t, step (busyWith withCs [.prim (.pinDc .data), .pull] [.fail]) = .next t ∧
      t.trace = (busyWith withCs [.prim (.pinDc .data), .pull] [.fail]).trace ++ [⟨.pinDc .data, .fail⟩]) ∧
    ∃ t, step (issuing unified .ramwr [] [.fail]) = .next t ∧
      t.trace = (issuing unified .ramwr [] [.fail]).trace ++ [⟨.send .cmd [0x2C], .fail⟩] :=
  ⟨⟨_, rfl, rfl⟩, _, rfl, rfl⟩

/-- The empty prefix, and all of the bytes. -/
theorem witness_FailedTransactionDeliversAPrefix :
    ([0x00, 0x03] : List Byte) = [] ++ [0x00, 0x03] ∧ ([0x00, 0x03] : List Byte) = [0x00, 0x03] ++ [] := by decide

/-- A pulling block with BUF empty, and with one word of two. -/
def pulling : State := { busyWith chunk2 [.pull] allOk with stream := given [wordToken 0x07E0, endToken] }
def pullingLast : State := { pulling with fill := 1, buf := [(0, 0xF8), (1, 0x00)] }

theorem pulling_inv : Safety.Inv pulling :=
  busyWith_inv _ _ 0 (by decide) (by decide) (by decide) (by decide) (by decide)

theorem pullingLast_inv : Safety.Inv pullingLast where
  cfg := by decide
  bufWf := by decide
  bufRange := by decide
  fill := by decide
  staged := by decide
  phase := by decide
  work := by decide
  fits := by decide
  mark := by decide
  trace := by decide
  cs := by decide
  dc := by decide
  refused := by decide

/-- Both clauses: the buffer has room left, and the word is its last. -/
theorem witness_PullStagesAWord :
    (Safety.Inv pulling ∧ pulling.phase = .busy ∧ pulling.todo = [.pull] ∧
      pulling.stream.pull = some (wordToken 0x07E0, given [endToken]) ∧ pulling.fill + 1 < pulling.cfg.chunk) ∧
    (Safety.Inv pullingLast ∧ pullingLast.phase = .busy ∧ pullingLast.todo = [.pull] ∧
      pullingLast.stream.pull = some (wordToken 0x07E0, given [endToken]) ∧ pullingLast.fill + 1 = pullingLast.cfg.chunk) :=
  ⟨⟨pulling_inv, by decide⟩, pullingLast_inv, by decide⟩

/-- INIT before its last wait. -/
def initEnding : State := { busyWith unified [.prim (.wait 10000), .markInit] [] with req := 0x01 }

theorem initEnding_inv : Safety.Inv initEnding :=
  busyWith_inv _ (given []) _ (by decide) (by decide) (by decide) (by decide) (by decide)

theorem witness_CtlInitRisesWithInitOnly :
    Safety.Inv initEnding ∧ initEnding.ctlInit = false ∧ ∃ t, step initEnding = .next t ∧ t.ctlInit = true :=
  ⟨initEnding_inv, rfl, _, rfl, rfl⟩

theorem witness_ErrorClearsCtlInit :
    ∃ t, step { issuing unified .ramwr [] [.fail] with ctlInit := true } = .next t ∧
      { issuing unified .ramwr [] [.fail] with ctlInit := true }.phase = .busy ∧ t.phase = .idle ∧
      t.result ≠ some .ok := ⟨_, rfl, by decide⟩

/-- Both ends of the ranges of R7. -/
theorem witness_InvAfterConstruction :
    Config.default.Wf ∧ { Config.default with sizeX := 1, sizeY := 65536, chunk := 64 }.Wf := by decide

theorem witness_StepKeepsInv : Safety.Inv pullingLast ∧ ∃ t, step pullingLast = .next t := ⟨pullingLast_inv, _, rfl⟩

theorem witness_StepNeverStops : Safety.Inv initEnding := initEnding_inv

/-- SET_ORIENTATION from construction: one transaction of each context. -/
theorem witness_TransactionsAreShaped :
    Config.default.Wf ∧ ∃ u, run 3 { State.construct Config.default with
        hostOps := [.request 0x130000000000000000 (given [])], answers := [.ok, .ok] } = .next u ∧
      ⟨.send .cmd [0x36], .ok⟩ ∈ u.trace ∧ ⟨.send .data [0x60], .ok⟩ ∈ u.trace :=
  ⟨by decide, _, rfl, by decide⟩

theorem witness_ScreenSizeIsNotRead : ∃ t, step (presented unified 0x04FFFFFFFFFFFF0000 [] []) = .next t := ⟨_, rfl⟩

theorem witness_CtlInitIsNotRead : ∃ t, step (presented unified 0x0400050007001F0000 [] []) = .next t := ⟨_, rfl⟩

/-- Each clause: HARD_RESET with operands it ignores, and SET_PIXEL. -/
theorem witness_UnusedOperandFieldsAreIgnored :
    (built unified []).phase = .idle ∧
    descReq 0x021111222233334444 ∈ ([0x01, 0x02, 0x03, 0x13, 0x23, 0x33] : List Byte) ∧
    (∃ u, run 3 (presented unified 0x021111222233334444 [] allOk) = .next u) ∧
    descReq 0x0400050007001FABCD = 0x04 ∧
    ∃ u, run 3 (presented unified 0x0400050007001FABCD [] allOk) = .next u :=
  ⟨rfl, by decide, ⟨_, rfl⟩, by decide, _, rfl⟩

/-- The hypotheses of every clause, on each of the three busses. -/
theorem witness_WaitFloorsTotal :
    ∀ cfg ∈ [unified, withCs, noCs],
      let s := { built cfg allOk with stream := given [wordToken 0xF800, endToken] }
      s.phase = .idle ∧ s.cfg.hasDelay = true ∧ 1 ≤ s.cfg.chunk ∧ s.AnswersOk hardResetPrims ∧
      s.AnswersOk (initPrims s.cfg) ∧ s.AnswersOk (frameCmd s.cfg s.cfg.opc.madctl [oriByte .landscape]) ∧
      s.AnswersOk (windowPrims s.cfg 1 2 1 2 ++ frameData s.cfg (be16 3)) ∧
      s.stream.tokens = ([0xF800] : List Word).map wordToken ++ endToken :: [] ∧ tokenItem endToken = .endOfStream ∧
      s.AnswersOk (windowPrims s.cfg 1 2 3 4 ++ streamPrims s.cfg [0xF800]) := by decide

/-- An endless stream with three colours listed, in a buffer of two words: four colours are sent. -/
theorem witness_EndlessStreamIsSentOn :
    let s := { built chunk2 allOk with stream := ⟨([1, 2, 3] : List Word).map wordToken, .endless 7⟩ }
    s.phase = .idle ∧ 1 ≤ s.cfg.chunk ∧ ([1, 2, 3] : List Word).length ≤ 2 * s.cfg.chunk ∧
    s.AnswersOk (windowPrims s.cfg 0 0 1 1 ++ streamPrims s.cfg ([1, 2, 3] ++
      (List.range (2 * s.cfg.chunk - 3)).map fun i => Config.freeColour (7 + i))) := by
  decide

/-- A pulling block with an endless stream, one colour of it listed. -/
def pullingEndless : State := { busyWith chunk2 [.pull] allOk with stream := ⟨[wordToken 0x07E0], .endless 0⟩ }

theorem pullingEndless_inv : Safety.Inv pullingEndless :=
  busyWith_inv _ _ 0 (by decide) (by decide) (by decide) (by decide) (by decide)

theorem witness_WithoutEndNoCompletion :
    Safety.Inv pullingEndless ∧ pullingEndless.phase = .busy ∧ pullingEndless.todo.getLast? = some .pull ∧
    (∀ x ∈ pullingEndless.stream.tokens, tokenItem x ≠ .endOfStream) ∧ pullingEndless.nextAnswer = .ok :=
  ⟨pullingEndless_inv, rfl, rfl, by simp [pullingEndless, tokenItem, wordToken], rfl⟩

/-- Its last hypothesis: the step answers a next state. -/
theorem witness_WithoutEndNoCompletion_step :
    view (fun s => (s.phase, s.todo, s.fill, s.stream)) (step pullingEndless) =
    some (.busy, [.pull], 1, ⟨[], .endless 0⟩) := by decide

end Sys2Proof.Tests
end

section
/-! The two bytes of a word as numbers (spec/00_scope.md R10). -/

namespace Sys2Proof

theorem hiByte_toNat (v : Word) : (hiByte v).toNat = v.toNat / 256 := by
  have hbyte : (hiByte v).toNat = v.toNat / 2 ^ 8 % 2 ^ 8 := by
    rw [hiByte, BitVec.extractLsb'_toNat, Nat.shiftRight_eq_div_pow]
  have hword : v.toNat < 2 ^ 16 := v.isLt
  omega

theorem loByte_toNat (v : Word) : (loByte v).toNat = v.toNat % 256 := by
  rw [loByte, BitVec.extractLsb'_toNat, Nat.shiftRight_zero]

/-- Settles O6: the two bytes are read as numbers, and `be16` is by definition the high byte before the low one. -/
theorem bigEndianSplit : Obligations.BigEndianSplit :=
  fun v => ⟨hiByte_toNat v, loByte_toNat v, rfl⟩

end Sys2Proof
end

section
/-! The two shapes an instruction's meaning has: a request is accepted, a controller command begins its frame. -/

namespace Sys2Proof.Machine

/-- The work of a request is computed from the latches alone (R23, R123). -/
def OfLatches (work : State → List MicroOp) : Prop :=
  ∀ s t : State, t.req = s.req → t.a = s.a → t.b = s.b → t.c = s.c → t.d = s.d → work t = work s

theorem orientationWork_ofLatches : OfLatches orientationWork := by
  intro s t hreq _ _ _ _
  simp only [orientationWork, hreq]

theorem pixelsWork_ofLatches : OfLatches pixelsWork := by
  intro s t _ ha hb hc hd
  simp only [pixelsWork, ha, hb, hc, hd]

theorem pixelWork_ofLatches : OfLatches pixelWork := by
  intro s t _ ha hb _ _
  simp only [pixelWork, ha, hb]

/-- What an instruction's meaning is made of, whichever instruction it is: an acceptance, with or without the Delay
Provider, or a frame. -/
theorem exec_shape (i : Instr) :
    (∃ q x y z w work, OfLatches work ∧ ∀ s, exec i s = accept q x y z w work s) ∨
    (∃ q x y z w work, ∀ s, exec i s = acceptTimed q x y z w work s) ∨
    ∀ s, exec i s = runFrame (commandPrims s.cfg i) s := by
  cases hport : i.port with
  | bus => exact .inr (.inr (exec_bus hport))
  | request =>
    cases i with
    | init a b c d => exact .inr (.inl ⟨_, a, b, c, d, _, fun _ => rfl⟩)
    | hardReset a b c d => exact .inr (.inl ⟨_, a, b, c, d, _, fun _ => rfl⟩)
    | setOrientation ori a b c d => exact .inl ⟨_, a, b, c, d, _, orientationWork_ofLatches, fun _ => rfl⟩
    | setPixel x y color d => exact .inl ⟨_, x, y, color, d, _, pixelWork_ofLatches, fun _ => rfl⟩
    | setPixels sx sy ex ey => exact .inl ⟨_, sx, sy, ex, ey, _, pixelsWork_ofLatches, fun _ => rfl⟩
    | _ => cases hport

end Sys2Proof.Machine
end

section
/-! The configuration is read-only (spec/10_state.md R20): no operation a step is made of writes it. -/

namespace Sys2Proof.Machine

theorem runPrim_cfg {p : Prim} {s t : State} (h : runPrim p s = .next t) : t.cfg = s.cfg := by
  rcases runPrim_cases h with ⟨hsettle, -⟩ | ⟨e, -, -, rfl⟩
  · exact (settle_spec hsettle).cfg
  · rfl

theorem runFrame_cfg {ps : List Prim} {s t : State} (h : runFrame ps s = .next t) : t.cfg = s.cfg := by
  cases ps with
  | nil => exact (settle_spec h).cfg
  | cons p rest =>
    have hprim : runPrim p (s.withTodo (rest.map .prim ++ s.todo)) = .next t := h
    simpa using runPrim_cfg hprim

theorem runPull_cfg {s t : State} (h : runPull s = .next t) : t.cfg = s.cfg := by
  unfold runPull at h
  split at h
  · cases h; rfl
  · split at h
    · exact (settle_spec h).cfg
    · split at h
      · cases h
      · rename_i hstage
        obtain ⟨-, rfl⟩ := State.stageWord_some hstage
        split at h
        · exact (settle_spec h).cfg
        · cases h; rfl

theorem accept_cfg {q : Byte} {x y z w : Word} {work : State → List MicroOp} {s t : State}
    (h : accept q x y z w work s = .next t) : t.cfg = s.cfg := by
  cases hp : s.phase with
  | busy => rw [accept_busy hp] at h; cases h; rfl
  | idle => rw [accept_idle hp] at h; cases h; rfl

theorem acceptTimed_cfg {q : Byte} {x y z w : Word} {work : List MicroOp} {s t : State}
    (h : acceptTimed q x y z w work s = .next t) : t.cfg = s.cfg := by
  cases hp : s.phase with
  | busy => rw [acceptTimed_busy hp] at h; cases h; rfl
  | idle =>
    cases hd : s.cfg.hasDelay with
    | true => rw [acceptTimed_idle hp hd] at h; cases h; rfl
    | false => rw [acceptTimed_noDelay hp hd] at h; cases h; rfl

theorem exec_cfg {i : Instr} {s t : State} (h : exec i s = .next t) : t.cfg = s.cfg := by
  obtain ⟨q, x, y, z, w, work, -, heq⟩ | ⟨q, x, y, z, w, work, heq⟩ | heq := exec_shape i <;> rw [heq] at h
  · exact accept_cfg h
  · exact acceptTimed_cfg h
  · exact runFrame_cfg h

theorem readResult_cfg (s : State) : s.readResult.cfg = s.cfg := by
  unfold State.readResult
  split <;> rfl

theorem idleStep_cfg {s t : State} (h : idleStep s = .next t) : t.cfg = s.cfg := by
  unfold idleStep at h
  split at h
  · cases h; rfl
  · cases h; exact readResult_cfg _
  · split at h
    · simpa using exec_cfg h
    · cases h; rfl

theorem busyStep_cfg {s t : State} (h : busyStep s = .next t) : t.cfg = s.cfg := by
  unfold busyStep at h
  split at h
  · simpa using runPrim_cfg h
  · simpa using runPull_cfg h
  · simpa using exec_cfg h
  · exact (settle_spec h).cfg
  · exact (settle_spec h).cfg
  · exact (settle_spec h).cfg
  · exact (settle_spec h).cfg
  · cases h; rfl

theorem step_cfg {s t : State} (h : step s = .next t) : t.cfg = s.cfg := by
  unfold step blockStep at h
  split at h
  · exact idleStep_cfg h
  · exact busyStep_cfg h

/-- Settles O15: construction stores the parameters by definition, and no operation of a step writes them. -/
theorem configurationIsReadOnly : Obligations.ConfigurationIsReadOnly :=
  ⟨fun _ => rfl, fun _ _ => step_cfg⟩

end Sys2Proof.Machine
end

section
/-! The screen size is read by no step (spec/10_state.md R21): every operation a step is made of commutes with a change
of CFG_SIZE_X and CFG_SIZE_Y. -/

namespace Sys2Proof.Machine

/-- `CFG_SIZE_X <- x; CFG_SIZE_Y <- y`, which no request does. -/
def State.resized (x y : Nat) (s : State) : State := { s with cfg := { s.cfg with sizeX := x, sizeY := y } }

@[simp] theorem State.resized_phase (x y : Nat) (s : State) : (s.resized x y).phase = s.phase := rfl
@[simp] theorem State.resized_fill (x y : Nat) (s : State) : (s.resized x y).fill = s.fill := rfl
@[simp] theorem State.resized_chunk (x y : Nat) (s : State) : (s.resized x y).cfg.chunk = s.cfg.chunk := rfl
@[simp] theorem State.resized_todo (x y : Nat) (s : State) : (s.resized x y).todo = s.todo := rfl
@[simp] theorem State.resized_hostOps (x y : Nat) (s : State) : (s.resized x y).hostOps = s.hostOps := rfl
@[simp] theorem State.resized_stream (x y : Nat) (s : State) : (s.resized x y).stream = s.stream := rfl

/-- An outcome with its next state, if it has one, changed by f. -/
def mapNext (f : State → State) : Outcome → Outcome
  | .next s => .next (f s)
  | .fault r => .fault r
  | .refused r => .refused r

/-- An operation reads neither CFG_SIZE_X nor CFG_SIZE_Y, and writes neither. -/
def SizeBlind (op : State → Outcome) : Prop :=
  ∀ x y s, op (s.resized x y) = mapNext (State.resized x y) (op s)

theorem stageWord_resized (c : Word) (x y : Nat) (s : State) :
    (s.resized x y).stageWord c = (s.stageWord c).map (State.resized x y) :=
  (apply_ite (Option.map (State.resized x y)) (s.fill < s.cfg.chunk) (some (s.staged c)) none).symm

theorem readResult_resized (x y : Nat) (s : State) :
    (s.resized x y).readResult = s.readResult.resized x y := by
  cases h : s.result <;> simp [State.readResult, State.resized, h, State.refuse]

theorem settle_sizeBlind (ops : List MicroOp) : SizeBlind (settle ops) := by
  intro x y s
  induction ops generalizing s with
  | nil => rfl
  | cons m r ih =>
    cases m with
    | prim p => rfl
    | pull => rfl
    | cmd i => rfl
    | clearFill => exact ih s.clearFill
    | markInit => exact ih (s.setCtlInit true)
    | stagePixel =>
      have hstage : (s.resized x y).clearFill.stageWord (s.resized x y).c = _ := stageWord_resized s.c x y s.clearFill
      simp only [settle, hstage]
      cases s.clearFill.stageWord s.c with
      | none => rfl
      | some u => exact ih u
    | flush =>
      have hbytes : (s.resized x y).stagedBytes = s.stagedBytes := rfl
      simp only [settle, State.resized_fill, hbytes]
      by_cases hfill : s.fill = 0
      · simp only [hfill, ↓reduceIte, ih]
      · simp only [hfill, ↓reduceIte]
        cases s.stagedBytes with
        | none => rfl
        | some bytes => rfl

theorem runPrim_sizeBlind (p : Prim) : SizeBlind (runPrim p) := by
  intro x y s
  have hsettle := settle_sizeBlind s.todo x y (s.performed p .ok)
  have hanswer : (s.resized x y).nextAnswer = s.nextAnswer := rfl
  unfold runPrim
  rw [hanswer]
  cases p.error with
  | none => exact hsettle
  | some e =>
    cases s.nextAnswer with
    | ok => exact hsettle
    | fail => rfl

theorem runFrame_sizeBlind (ps : List Prim) : SizeBlind (runFrame ps) := by
  intro x y s
  cases ps with
  | nil => exact settle_sizeBlind s.todo x y s
  | cons p rest => exact runPrim_sizeBlind p x y (s.withTodo (rest.map .prim ++ s.todo))

theorem runPull_sizeBlind : SizeBlind runPull := by
  intro x y s
  unfold runPull
  rw [State.resized_stream]
  cases s.stream.pull with
  | none => rfl
  | some answer =>
    obtain ⟨t, stream⟩ := answer
    dsimp only
    cases tokenItem t with
    | endOfStream => exact settle_sizeBlind (.flush :: s.todo) x y (s.pulled stream)
    | word c =>
      have hstage : ((s.resized x y).pulled stream).stageWord c = _ := stageWord_resized c x y (s.pulled stream)
      simp only [hstage]
      cases (s.pulled stream).stageWord c with
      | none => rfl
      | some u =>
        by_cases hfull : u.fill = u.cfg.chunk
        · have hsettle := settle_sizeBlind (.flush :: .pull :: s.todo) x y u
          simpa only [Option.map_some, State.resized_fill, State.resized_chunk, State.resized_todo, hfull, if_true]
            using hsettle
        · simp only [Option.map_some, State.resized_fill, State.resized_chunk, hfull, if_false]
          rfl

theorem accept_sizeBlind (q : Byte) (a b c d : Word) {work : State → List MicroOp} (hwork : OfLatches work) :
    SizeBlind (accept q a b c d work) := by
  intro x y s
  have hsame : work ((s.resized x y).latch q a b c d) = work (s.latch q a b c d) := hwork _ _ rfl rfl rfl rfl rfl
  cases hp : s.phase with
  | busy => rw [accept_busy hp, accept_busy (s := s.resized x y) hp]; rfl
  | idle => rw [accept_idle hp, accept_idle (s := s.resized x y) hp, hsame]; rfl

theorem acceptTimed_sizeBlind (q : Byte) (a b c d : Word) (work : List MicroOp) :
    SizeBlind (acceptTimed q a b c d work) := by
  intro x y s
  cases hp : s.phase with
  | busy => rw [acceptTimed_busy hp, acceptTimed_busy (s := s.resized x y) hp]; rfl
  | idle =>
    cases hd : s.cfg.hasDelay with
    | true => rw [acceptTimed_idle hp hd, acceptTimed_idle (s := s.resized x y) hp hd]; rfl
    | false => rw [acceptTimed_noDelay hp hd, acceptTimed_noDelay (s := s.resized x y) hp hd]; rfl

/-- A frame takes the transport variant, the chip-select line and the opcodes from the configuration, and no size. -/
theorem commandPrims_resized (i : Instr) (x y : Nat) (s : State) :
    commandPrims (s.resized x y).cfg i = commandPrims s.cfg i := by
  cases i <;> rfl

theorem exec_sizeBlind (i : Instr) : SizeBlind (exec i) := by
  intro x y s
  obtain ⟨q, a, b, c, d, work, hwork, heq⟩ | ⟨q, a, b, c, d, work, heq⟩ | heq := exec_shape i <;> rw [heq, heq]
  · exact accept_sizeBlind q a b c d hwork x y s
  · exact acceptTimed_sizeBlind q a b c d work x y s
  · rw [commandPrims_resized]
    exact runFrame_sizeBlind _ x y s

theorem idleStep_sizeBlind : SizeBlind idleStep := by
  intro x y s
  unfold idleStep
  rw [State.resized_hostOps]
  rcases s.hostOps with _ | ⟨⟨desc, stream⟩ | _, rest⟩
  · rfl
  · dsimp only
    cases decodeDesc desc with
    | ok i => exact exec_sizeBlind i x y (s.withHost rest stream)
    | error e => rfl
  · exact congrArg _ (readResult_resized x y (s.withHost rest s.stream))

theorem busyStep_sizeBlind : SizeBlind busyStep := by
  intro x y s
  unfold busyStep
  rw [State.resized_todo]
  rcases s.todo with _ | ⟨m, rest⟩
  · rfl
  · cases m with
    | prim p => exact runPrim_sizeBlind p x y (s.withTodo rest)
    | pull => exact runPull_sizeBlind x y (s.withTodo rest)
    | cmd i => exact exec_sizeBlind i x y (s.withTodo rest)
    | clearFill => exact settle_sizeBlind _ x y s
    | stagePixel => exact settle_sizeBlind _ x y s
    | flush => exact settle_sizeBlind _ x y s
    | markInit => exact settle_sizeBlind _ x y s

theorem step_sizeBlind : SizeBlind step := by
  intro x y s
  unfold step blockStep
  rw [State.resized_phase]
  cases s.phase with
  | idle => exact idleStep_sizeBlind x y s
  | busy => exact busyStep_sizeBlind x y s

/-- Settles O46: the step of the resized state is the resized step, at every outcome. -/
theorem screenSizeIsNotRead : Obligations.ScreenSizeIsNotRead := by
  intro s x y resized t hstep
  calc step (s.resized x y) = mapNext (State.resized x y) (step s) := step_sizeBlind x y s
    _ = .next (t.resized x y) := by rw [hstep]; rfl

end Sys2Proof.Machine
end

section
/-! Which request codes are legal (spec/30_encoding.md R76), and what an idle block does with a reserved one. -/

namespace Sys2Proof

/-- R76: RSV = 0, OP is 1 to 5, and ORI = 0 unless OP = 3, the fields read from REQ as a number. -/
def LegalCode (req : Nat) : Prop :=
  req / 64 = 0 ∧ (1 ≤ req % 16 ∧ req % 16 ≤ 5) ∧ (req / 16 % 4 = 0 ∨ req % 16 = 3)

theorem reqRsv_eq_zero_iff (r : Byte) : reqRsv r = 0#2 ↔ r.toNat / 64 = 0 := by
  rw [← BitVec.toNat_inj, reqRsv_toNat, BitVec.toNat_zero]

theorem reqOri_eq_zero_iff (r : Byte) : reqOri r = 0#2 ↔ r.toNat / 16 % 4 = 0 := by
  rw [← BitVec.toNat_inj, reqOri_toNat, BitVec.toNat_zero]

theorem reqOp_eq_three_iff (r : Byte) : reqOp r = 3#4 ↔ r.toNat % 16 = 3 := by
  rw [← BitVec.toNat_inj, reqOp_toNat]
  rfl

/-- The guards of the decoder, in its order: RSV, then SET_ORIENTATION with any ORI, then the range of OP, then ORI. -/
theorem decodeReq_ok_iff (r : Byte) (a b c d : Word) : (∃ i, decodeReq r a b c d = .ok i) ↔ LegalCode r.toNat := by
  simp only [decodeReq, LegalCode, ne_eq, reqRsv_eq_zero_iff, reqOri_eq_zero_iff, reqOp_eq_three_iff, reqOp_toNat]
  by_cases hrsv : r.toNat / 64 = 0
  case neg => simp [hrsv]
  by_cases hthree : r.toNat % 16 = 3
  case pos => simp [hrsv, hthree]
  by_cases hop : r.toNat % 16 = 0 ∨ 5 < r.toNat % 16
  case pos =>
    have hrange : ¬ (1 ≤ r.toNat % 16 ∧ r.toNat % 16 ≤ 5) := by omega
    simp [hrsv, hthree, hop, hrange]
  have hrange : 1 ≤ r.toNat % 16 ∧ r.toNat % 16 ≤ 5 := by omega
  by_cases hori : r.toNat / 16 % 4 = 0
  case neg => simp [hrsv, hthree, hop, hori]
  simp only [hrsv, hthree, hop, hori, hrange, not_true, if_false, true_or, and_true, iff_true]
  split_ifs <;> exact ⟨_, rfl⟩

theorem decodeDesc_ok_iff (desc : Desc) : (∃ i, decodeDesc desc = .ok i) ↔ LegalCode (desc.toNat / 2 ^ 64) := by
  rw [← descReq_toNat]
  exact decodeReq_ok_iff ..

end Sys2Proof

namespace Sys2Proof.Machine

/-- R76, R101: an idle block presented with a reserved descriptor uses it up and records the refusal. -/
theorem step_of_reserved {desc : Desc} {e : DecodeError} {s : State} {stream : TokenStream} {rest : List HostOp}
    (hreserved : decodeDesc desc = .error e) (hidle : s.phase = .idle)
    (hops : s.hostOps = .request desc stream :: rest) :
    step s = .next ((s.withHost rest s.stream).refuse .reservedRequest) := by
  simp only [step, blockStep, hidle, idleStep, hops, hreserved]

/-- Settles O3: the decoder's guards are R76's, and a descriptor that does not decode is refused by the idle step. -/
theorem legalRequestCodes : Obligations.LegalRequestCodes := by
  intro desc req legal
  refine ⟨decodeDesc_ok_iff desc, fun hillegal s stream rest hidle hops => ?_⟩
  cases hdecode : decodeDesc desc with
  | ok i => exact absurd ((decodeDesc_ok_iff desc).mp ⟨i, hdecode⟩) hillegal
  | error e => exact step_of_reserved hdecode hidle hops

end Sys2Proof.Machine
end

section
/-! What a reader finds in a wire stream of command frames (spec/30_encoding.md R79, R87): with distinct opcodes each
frame decodes to its command, and the frames are read back one by one. -/

namespace Sys2Proof

/-- A controller command's frame decodes to it, whatever bytes follow (R8, R81, R87). -/
theorem decodeFrame_encode {o : Opcodes} (ho : o.Distinct) {i : Instr} (hi : i.port = .bus) (rest : List Byte) :
    decodeFrame o (encode o i ++ rest) = .ok (i, rest) := by
  simp only [Opcodes.Distinct, Opcodes.toList, List.nodup_cons, List.mem_cons, List.not_mem_nil, or_false,
    not_or] at ho
  cases i with
  | init | hardReset | setOrientation | setPixel | setPixels => cases hi
  | _ => simp [decodeFrame, encode, frame0, frame1, frame4, be16, ho, eq_comm]

theorem encode_eq_cons (o : Opcodes) (i : Instr) : ∃ op params, encode o i = op :: params := by
  cases i <;> exact ⟨_, _, rfl⟩

end Sys2Proof

namespace Sys2Proof.Machine

/-- The wire bytes of a frame: its opcode in command context, its parameters in data context (R79). -/
def frameWire : List Byte → List (Ctx × Byte)
  | [] => []
  | op :: params => (.cmd, op) :: params.map fun b => (.data, b)

/-- The next byte of the stream is no data byte: a command frame starts, or the stream ends. -/
def AtFrameStart (w : List (Ctx × Byte)) : Prop := (w.takeWhile fun p => p.1 == .data) = []

theorem dataRun_params {w : List (Ctx × Byte)} (hw : AtFrameStart w) (params : List Byte) :
    dataRun ((params.map fun b => (.data, b)) ++ w) = params := by
  rw [dataRun, List.takeWhile_append_of_pos (by simp), hw]
  simp

theorem dropWhile_params {w : List (Ctx × Byte)} (hw : AtFrameStart w) (params : List Byte) :
    (((params.map fun b => (Ctx.data, b)) ++ w).dropWhile fun p => p.1 == .data) = w := by
  have hnone := List.takeWhile_append_dropWhile (p := fun p : Ctx × Byte => p.1 == .data) (l := w)
  rw [hw, List.nil_append] at hnone
  rw [List.dropWhile_append_of_pos (by simp), hnone]

/-- A reader at a command frame finds the command and goes on behind its parameters (R87). -/
theorem readWire_frame {o : Opcodes} (ho : o.Distinct) {i : Instr} (hi : i.port = .bus) (n : Nat)
    {w : List (Ctx × Byte)} (hw : AtFrameStart w) :
    readWire o (n + 1) (frameWire (encode o i) ++ w) = (readWire o n w).map (.command i :: ·) := by
  have hdecode := decodeFrame_encode ho hi []
  obtain ⟨op, params, hframe⟩ := encode_eq_cons o i
  rw [hframe, List.append_nil] at hdecode
  rw [hframe, frameWire, List.cons_append, readWire, dataRun_params hw, dropWhile_params hw, hdecode]
  cases readWire o n w <;> rfl

theorem atFrameStart_frames (o : Opcodes) (is : List Instr) :
    AtFrameStart (is.flatMap fun i => frameWire (encode o i)) := by
  cases is with
  | nil => rfl
  | cons i is =>
    obtain ⟨op, params, hframe⟩ := encode_eq_cons o i
    rw [List.flatMap_cons, hframe]
    rfl

/-- A stream of command frames reads as those commands and no data frame (R80, R87). -/
theorem readWire_frames {o : Opcodes} (ho : o.Distinct) {is : List Instr} (his : ∀ i ∈ is, i.port = .bus) :
    readWire o is.length (is.flatMap fun i => frameWire (encode o i)) = some (is.map .command) := by
  induction is with
  | nil => rfl
  | cons i is ih =>
    have hi : i.port = .bus := his i (by simp)
    rw [List.flatMap_cons, List.length_cons, readWire_frame ho hi _ (atFrameStart_frames o is),
      ih fun j hj => his j (by simp [hj])]
    rfl

end Sys2Proof.Machine
end

section
/-! A successful INIT (spec/41_init_fsm.md R104, R105, R107): its run to the end, what its events carry, and how many
there are. -/

namespace Sys2Proof.Machine

/-! ### The run -/

/-- INIT's work before `CTL_INIT <- true` has the primitives of the table of R105. -/
theorem workPrims_init (cfg : Config) : workPrims cfg (hardResetSeq ++ initSeq.flatMap initRow) = initPrims cfg := by
  simp [hardResetSeq, initSeq, initRow, workPrims, commandPrims, initPrims, hardResetPrims, tRstUs, tSwresetUs,
    tSlpoutUs, tInvonUs, tNoronUs, tDisponUs, madctlInit, colmodInit]

/-- INIT's work, answered OK throughout, performs its primitives one a step and completes with CTL_INIT set (R104). -/
theorem run_initWork {s : State} (hbusy : s.phase = .busy) (htodo : s.todo = initWork)
    (hans : s.AnswersOk (initPrims s.cfg)) :
    run (initPrims s.cfg).length s = .next ((s.performedAll (initPrims s.cfg)).setCtlInit true).complete := by
  rw [← workPrims_init] at hans ⊢
  exact run_work hbusy htodo (by decide) (by decide) hans

/-- An INIT that an idle block accepts. -/
theorem exec_init {s : State} (hidle : s.phase = .idle) (hdelay : s.cfg.hasDelay = true) (a b c d : Word) :
    exec (.init a b c d) s = .next (((s.latch (reqByte 0#2 1#4) a b c d).setCtlInit false).withTodo initWork) :=
  acceptTimed_idle hidle hdelay ..

/-! ### What its events carry -/

/-- The eight commands of INIT, in order (R105). -/
def initCommands : List Instr := initSeq.map Prod.fst

/-- The wire stream of a successful INIT: the frames of the eight commands; drives and waits carry nothing (R52). -/
theorem wire_initPrims (cfg : Config) :
    wire (okEvents (initPrims cfg)) = initCommands.flatMap fun i => frameWire (encode cfg.opc i) := by
  simp only [initPrims, okEvents_append, wire_append, wire_frameCmd]
  rfl

/-! ### How many events there are -/

theorem length_frameCmd (cfg : Config) (op : Byte) (params : List Byte) :
    (frameCmd cfg op params).length = match cfg.variant with
      | .unified => if params = [] then 1 else 2
      | .discrete => (if params = [] then 2 else 4) + if cfg.hasCs then 2 else 0 := by
  cases hvariant : cfg.variant with
  | unified => by_cases hparams : params = [] <;> simp [frameCmd, hvariant, hparams]
  | discrete =>
    cases hcs : cfg.hasCs <;> by_cases hparams : params = [] <;> simp [frameCmd, csPrims, hvariant, hcs, hparams]

theorem length_initPrims (cfg : Config) :
    (initPrims cfg).length = match cfg.variant with
      | .unified => 21
      | .discrete => if cfg.hasCs then 47 else 31 := by
  simp only [initPrims, List.length_append, length_frameCmd]
  cases cfg.variant with
  | unified => rfl
  | discrete => cases cfg.hasCs <;> rfl

/-- Settles O25: INIT runs its primitives to the end, and their wire stream is the eight command frames, which a reader
finds again by opcode. -/
theorem initEmitsTheEightCommands : Obligations.InitEmitsTheEightCommands := by
  intro s a b c d hidle hdelay hopc hans
  refine ⟨_, _, okEvents (initPrims s.cfg), exec_init hidle hdelay a b c d, run_initWork rfl rfl hans, rfl, rfl,
    ?trace, ?bytes, ?frames, ?count⟩
  case trace => simp
  case bytes => exact wire_initPrims s.cfg
  case frames =>
    rw [wire_initPrims]
    exact readWire_frames hopc (is := initCommands) (by decide)
  case count => exact List.length_map _ |>.trans (length_initPrims s.cfg)

end Sys2Proof.Machine
end

section
/-! What the data frames of a colour stream carry (spec/42_window_sequencer.md R125, R127): the groups of CFG_CHUNK
colours are the stream again, and there are ceil(N / CFG_CHUNK) of them. -/

namespace Sys2Proof.Machine

/-! ### The groups -/

theorem flatten_chunks {k n : Nat} {cs : List Word} (hk : 1 ≤ k) (hn : cs.length ≤ n) :
    (chunks k n cs).flatten = cs := by
  fun_induction chunks k n cs with
  | case1 cs => exact (List.eq_nil_of_length_eq_zero (Nat.le_zero.mp hn)).symm
  | case2 n => rfl
  | case3 n c cs ih =>
    have hrest : ((c :: cs).drop k).length ≤ n := by simp at hn ⊢; omega
    rw [List.flatten_cons, ih hrest, List.take_append_drop]

theorem length_chunks {k n : Nat} {cs : List Word} (hk : 1 ≤ k) (hn : cs.length ≤ n) :
    (chunks k n cs).length = (cs.length + k - 1) / k := by
  fun_induction chunks k n cs with
  | case1 cs =>
    have hempty : cs.length = 0 := by omega
    simp [hempty, Nat.div_eq_of_lt (show k - 1 < k by omega)]
  | case2 n => simp [Nat.div_eq_of_lt (show k - 1 < k by omega)]
  | case3 n c cs ih =>
    have hrest : ((c :: cs).drop k).length ≤ n := by simp at hn ⊢; omega
    have hquot : (cs.length + 1 - k + k - 1) / k = cs.length / k := by
      by_cases hfull : k ≤ cs.length + 1
      · congr 1; omega
      · rw [Nat.div_eq_of_lt (by omega), Nat.div_eq_of_lt (by omega)]
    calc (chunks k n ((c :: cs).drop k)).length + 1
        = (cs.length + 1 - k + k - 1) / k + 1 := by rw [ih hrest, List.length_drop, List.length_cons]
      _ = (cs.length + k) / k := by rw [hquot, Nat.add_div_right _ hk]
      _ = ((c :: cs).length + k - 1) / k := by congr 1; simp

/-! ### Their wire bytes -/

theorem okEvents_flatMap {α : Type} (f : α → List Prim) (l : List α) :
    okEvents (l.flatMap f) = l.flatMap fun a => okEvents (f a) := List.map_flatMap

theorem wire_flatMap {α : Type} (f : α → List Event) (l : List α) :
    wire (l.flatMap f) = l.flatMap fun a => wire (f a) := List.flatMap_assoc

theorem wire_colorFrame (cfg : Config) (cs : List Word) :
    wire (okEvents (frameData cfg (cs.flatMap be16))) = colorWire cs := by
  rw [wire_frameData, List.map_flatMap]
  rfl

theorem flatMap_colorWire (gs : List (List Word)) : gs.flatMap colorWire = colorWire gs.flatten := by
  simp only [colorWire, List.flatMap_def, List.map_flatten, List.flatten_flatten, List.map_map]
  rfl

/-- R127: the groups do not show on the wire. -/
theorem wire_streamPrims {cfg : Config} (hk : 1 ≤ cfg.chunk) (cs : List Word) :
    wire (okEvents (streamPrims cfg cs)) = colorWire cs := by
  simp only [streamPrims, okEvents_flatMap, wire_flatMap, wire_colorFrame, flatMap_colorWire]
  rw [flatten_chunks hk le_rfl]

theorem wire_windowPrims (cfg : Config) (sx sy ex ey : Word) :
    wire (okEvents (windowPrims cfg sx sy ex ey)) = windowWire cfg sx sy ex ey := by
  simp only [windowPrims, okEvents_append, wire_append, wire_frameCmd]
  rfl

/-! ### Their data transactions -/

/-- The number of data transactions of primitives that all completed. -/
def dataSends (ps : List Prim) : Nat := (okEvents ps).countP Event.isDataSend

theorem dataSends_append (ps qs : List Prim) : dataSends (ps ++ qs) = dataSends ps + dataSends qs := by
  simp only [dataSends, okEvents_append, List.countP_append]

theorem dataSends_frameCmd (cfg : Config) (op : Byte) (params : List Byte) :
    dataSends (frameCmd cfg op params) = if params = [] then 0 else 1 := by
  unfold frameCmd csPrims
  split <;> repeat' split
  all_goals simp_all [dataSends, okEvents, Event.isDataSend, List.countP_cons]

theorem dataSends_frameData (cfg : Config) (bs : List Byte) : dataSends (frameData cfg bs) = 1 := by
  unfold frameData csPrims
  split <;> repeat' split
  all_goals rfl

/-- CASET and RASET have one data transaction each, for their parameters; RAMWR has none. -/
theorem dataSends_windowPrims (cfg : Config) (sx sy ex ey : Word) : dataSends (windowPrims cfg sx sy ex ey) = 2 := by
  simp [windowPrims, dataSends_append, dataSends_frameCmd, be16]

theorem dataSends_frames (cfg : Config) (gs : List (List Word)) :
    dataSends (gs.flatMap fun g => frameData cfg (g.flatMap be16)) = gs.length := by
  induction gs with
  | nil => rfl
  | cons g gs ih => rw [List.flatMap_cons, dataSends_append, dataSends_frameData, ih, List.length_cons, Nat.add_comm]

/-- R127: a stream of N colours has ceil(N / CFG_CHUNK) data frames. -/
theorem dataSends_streamPrims {cfg : Config} (hk : 1 ≤ cfg.chunk) (cs : List Word) :
    dataSends (streamPrims cfg cs) = (cs.length + cfg.chunk - 1) / cfg.chunk := by
  rw [streamPrims, dataSends_frames, length_chunks hk le_rfl]

end Sys2Proof.Machine
end

section
/-! A successful SET_PIXELS (spec/42_window_sequencer.md R122, R125): the window's frames, then STREAM's loop followed
token by token up to the END. -/

namespace Sys2Proof.Machine

/-! ### Runs that complete -/

/-- n steps complete the running request with RESULT OK, and ps are the primitives they perform. -/
def CompletesWith (n : Nat) (ps : List Prim) (s : State) : Prop :=
  ∃ u, run n s = .next u ∧ u.phase = .idle ∧ u.result = some .ok ∧ u.trace = s.trace ++ okEvents ps

theorem CompletesWith.after {m n : Nat} {ps qs : List Prim} {s t : State} (hrun : run m s = .next t)
    (htrace : t.trace = s.trace ++ okEvents ps) (h : CompletesWith n qs t) : CompletesWith (m + n) (ps ++ qs) s := by
  obtain ⟨u, hrest, hphase, hresult, hmore⟩ := h
  refine ⟨u, (run_add hrun n).trans hrest, hphase, hresult, ?_⟩
  rw [hmore, htrace, okEvents_append, List.append_assoc]

/-! ### One turn of STREAM's loop -/

theorem pull_of_tokens {st : TokenStream} {t : Token} {ts : List Token} (h : st.tokens = t :: ts) :
    st.pull = some (t, ⟨ts, st.after⟩) := by
  obtain ⟨tokens, after⟩ := st
  subst h
  rfl

/-- The step of a busy block at a Pull that is answered with END (R125). -/
theorem step_pull_end {s : State} {e : Token} {r : List MicroOp} {st : TokenStream} (hbusy : s.phase = .busy)
    (htodo : s.todo = .pull :: r) (hpull : s.stream.pull = some (e, st)) (hend : tokenItem e = .endOfStream) :
    step s = settle (.flush :: r) (s.pulled st) := by
  simp only [step, blockStep, hbusy, busyStep, htodo, runPull, State.withTodo_stream, hpull, hend]
  exact settle_withTodo (.flush :: r) r (s.pulled st)

/-- The block is at the Pull of STREAM's loop with the colours ws staged, and nothing is to be done after the loop. -/
structure Pulling (cfg : Config) (ws : List Word) (s : State) : Prop where
  config : s.cfg = cfg
  busy : s.phase = .busy
  todo : s.todo = [.pull]
  fill : s.fill = ws.length
  room : ws.length < cfg.chunk
  staged : s.stagedBytes = some (ws.flatMap be16)

/-- The state once a Pull has been answered with the colour c and c has been staged. -/
def State.tookWord (st : TokenStream) (c : Word) (s : State) : State := ((s.withTodo []).pulled st).staged c

@[simp] theorem State.tookWord_trace (st : TokenStream) (c : Word) (s : State) :
    (s.tookWord st c).trace = s.trace := rfl

@[simp] theorem State.tookWord_stream (st : TokenStream) (c : Word) (s : State) : (s.tookWord st c).stream = st := rfl

section
variable {cfg : Config} {ws : List Word} {s : State} {st : TokenStream}

theorem Pulling.tookWord_stagedBytes (h : Pulling cfg ws s) (c : Word) :
    (s.tookWord st c).stagedBytes = some ((ws ++ [c]).flatMap be16) := by
  have hbytes := stagedBytes_staged (s := (s.withTodo []).pulled st) h.staged c
  simpa [State.tookWord] using hbytes

theorem Pulling.step_word {c : Word} (h : Pulling cfg ws s) (hpull : s.stream.pull = some (wordToken c, st)) :
    step s = if ws.length + 1 = cfg.chunk then settle [.flush, .pull] (s.tookWord st c)
      else .next ((s.tookWord st c).withTodo [.pull]) := by
  obtain ⟨rfl, hbusy, htodo, hfill, hroom, -⟩ := h
  rw [← hfill] at hroom ⊢
  exact step_pull_word hbusy htodo hroom hpull

/-- A colour that leaves room in BUF is staged, and the block pulls again. -/
theorem Pulling.word_room {c : Word} (h : Pulling cfg ws s) (hpull : s.stream.pull = some (wordToken c, st))
    (hnotFull : ¬ ws.length + 1 = cfg.chunk) :
    step s = .next ((s.tookWord st c).withTodo [.pull]) ∧
      Pulling cfg (ws ++ [c]) ((s.tookWord st c).withTodo [.pull]) := by
  have hstep := h.step_word hpull
  rw [if_neg hnotFull] at hstep
  have hroom : (ws ++ [c]).length < cfg.chunk := by
    have hbefore := h.room
    simp; omega
  have hfill : s.fill + 1 = (ws ++ [c]).length := by simp [h.fill]
  exact ⟨hstep, h.config, h.busy, rfl, hfill, hroom, h.tookWord_stagedBytes c⟩

/-- A colour that fills BUF is sent with those before it as one data frame, and the block pulls again, BUF empty. -/
theorem Pulling.word_full {c : Word} {ps : List Prim} (h : Pulling cfg ws s)
    (hpull : s.stream.pull = some (wordToken c, st)) (hfull : ws.length + 1 = cfg.chunk)
    (hps : ps = frameData cfg ((ws ++ [c]).flatMap be16)) (hans : s.AnswersOk ps) :
    run (ps.length + 1) s = .next (((s.tookWord st c).performedAll ps).clearFill.withTodo [.pull]) ∧
      Pulling cfg [] (((s.tookWord st c).performedAll ps).clearFill.withTodo [.pull]) := by
  have hcfg : (s.tookWord st c).cfg = cfg := h.config
  have hbusy : (s.tookWord st c).phase = .busy := h.busy
  have hroom : 0 < cfg.chunk := by omega
  rw [← hcfg] at hps
  subst hps
  obtain ⟨v, hflush, hrun⟩ := flush_run (r := [.pull]) hbusy (Nat.succ_ne_zero _) (h.tookWord_stagedBytes c) hans
  have hstep := h.step_word hpull
  rw [if_pos hfull, hflush] at hstep
  exact ⟨(run_succ hstep _).trans hrun, by simpa using hcfg, by simpa using hbusy, rfl, rfl, hroom, rfl⟩

/-- END sends what is staged, if anything, as the last data frame, and the request completes. -/
theorem Pulling.completes {e : Token} (h : Pulling cfg ws s) (hpull : s.stream.pull = some (e, st))
    (hend : tokenItem e = .endOfStream) (hans : s.AnswersOk (streamPrims cfg ws)) :
    CompletesWith ((streamPrims cfg ws).length + 1) (streamPrims cfg ws) s := by
  obtain ⟨rfl, hbusy, htodo, hfill, hroom, hstaged⟩ := h
  have hstep := step_pull_end hbusy htodo hpull hend
  by_cases hws : ws = []
  case pos =>
    subst hws
    have hempty : (s.pulled st).fill = 0 := hfill
    rw [settle, if_pos hempty, settle] at hstep
    exact ⟨_, run_succ hstep 0, rfl, rfl, (List.append_nil _).symm⟩
  case neg =>
    rw [streamPrims_last s.cfg ws hroom.le hws] at hans ⊢
    have hsome : s.fill ≠ 0 := by simpa [hfill] using hws
    obtain ⟨v, hflush, hrun⟩ := flush_run (r := []) (u := s.pulled st) hbusy hsome hstaged hans
    exact ⟨_, (run_succ (hstep.trans hflush) _).trans hrun, rfl, rfl, performedAll_trace ..⟩

end

/-! ### The whole loop -/

/-- STREAM with the colours ws staged and the colours cs, then END, still to come (R125). -/
theorem Pulling.run_stream {cfg : Config} {ws cs : List Word} {e : Token} {rest : List Token} {s : State}
    (h : Pulling cfg ws s) (htokens : s.stream.tokens = cs.map wordToken ++ e :: rest)
    (hend : tokenItem e = .endOfStream) (hans : s.AnswersOk (streamPrims cfg (ws ++ cs))) :
    CompletesWith ((streamPrims cfg (ws ++ cs)).length + cs.length + 1) (streamPrims cfg (ws ++ cs)) s := by
  induction cs generalizing ws s with
  | nil =>
    rw [List.append_nil] at hans ⊢
    exact h.completes (pull_of_tokens htokens) hend hans
  | cons c cs ih =>
    obtain ⟨st, hst, hpull⟩ : ∃ st : TokenStream, st.tokens = cs.map wordToken ++ e :: rest ∧
        s.stream.pull = some (wordToken c, st) := ⟨_, rfl, pull_of_tokens htokens⟩
    rw [List.append_cons] at hans ⊢
    by_cases hfull : ws.length + 1 = cfg.chunk
    case pos =>
      rw [streamPrims_full cfg (ws ++ [c]) cs (by simpa using hfull) (by omega)] at hans ⊢
      set ps := frameData cfg ((ws ++ [c]).flatMap be16) with hps
      obtain ⟨hrun, hnext⟩ := h.word_full hpull hfull hps (AnswersOk.append_left hans)
      have hlater := AnswersOk.append_right (s := s.tookWord st c) hans
      have hloop := ih hnext (by simpa using hst) hlater
      have hcount : (ps ++ streamPrims cfg cs).length + (c :: cs).length + 1 =
          (ps.length + 1) + ((streamPrims cfg cs).length + cs.length + 1) := by simp; omega
      rw [hcount]
      exact hloop.after hrun (by simp)
    case neg =>
      obtain ⟨hstep, hnext⟩ := h.word_room hpull hfull
      have hloop := ih hnext hst hans
      rw [List.length_cons, ← Nat.add_assoc, Nat.add_comm _ 1]
      exact hloop.after (ps := []) (run_succ hstep 0) (List.append_nil _).symm

/-! ### The whole request -/

theorem workPrims_window (cfg : Config) (sx sy ex ey : Word) :
    workPrims cfg (window sx sy ex ey ++ [.cmd .ramwr]) = windowPrims cfg sx sy ex ey := by
  simp [window, workPrims, commandPrims, windowPrims]

/-- A SET_PIXELS that an idle block accepts. -/
theorem exec_setPixels {s : State} (hidle : s.phase = .idle) (sx sy ex ey : Word) :
    exec (.setPixels sx sy ex ey) s = .next ((s.latch (reqByte 0#2 5#4) sx sy ex ey).withTodo
      (window sx sy ex ey ++ [.cmd .ramwr] ++ [.clearFill, .pull])) :=
  accept_idle hidle ..

/-- SET_PIXELS, answered OK throughout, sends the window and then the stream, and completes (R122, R125). -/
theorem setPixels_completes {s : State} {sx sy ex ey : Word} {cs : List Word} {e : Token} {rest : List Token}
    (hidle : s.phase = .idle) (hchunk : 1 ≤ s.cfg.chunk) (htokens : s.stream.tokens = cs.map wordToken ++ e :: rest)
    (hend : tokenItem e = .endOfStream)
    (hans : s.AnswersOk (windowPrims s.cfg sx sy ex ey ++ streamPrims s.cfg cs)) :
    ∃ t, exec (.setPixels sx sy ex ey) s = .next t ∧ t.trace = s.trace ∧
      CompletesWith ((windowPrims s.cfg sx sy ex ey).length + ((streamPrims s.cfg cs).length + cs.length + 1))
        (windowPrims s.cfg sx sy ex ey ++ streamPrims s.cfg cs) t := by
  refine ⟨_, exec_setPixels hidle sx sy ex ey, rfl, ?_⟩
  rw [← workPrims_window] at hans ⊢
  set ws := window sx sy ex ey ++ [.cmd .ramwr]
  set t := (s.latch (reqByte 0#2 5#4) sx sy ex ey).withTodo (ws ++ [.clearFill, .pull])
  have hwindow : run (workPrims s.cfg ws).length t =
      .next ((t.performedAll (workPrims s.cfg ws)).clearFill.withTodo [.pull]) :=
    run_work (s := t) rfl rfl (by simp [ws]) (by simp [ws, window, MicroOp.loud, Instr.port])
      (AnswersOk.append_left hans)
  have hpulling : Pulling s.cfg [] ((t.performedAll (workPrims s.cfg ws)).clearFill.withTodo [.pull]) :=
    ⟨by simp [t], by simp [t], rfl, rfl, hchunk, rfl⟩
  have hstream := hpulling.run_stream (by simpa [t] using htokens) hend (AnswersOk.append_right (s := t) hans)
  exact hstream.after hwindow (by simp)

/-- Settles O30: the run is STREAM followed token by token; the wire and the frame count are those of its groups. -/
theorem chunkingDoesNotChangeTheWire : Obligations.ChunkingDoesNotChangeTheWire := by
  intro s sx sy ex ey cs e rest hidle hchunk htokens hend hans
  obtain ⟨t, hexec, hsame, u, hrun, hphase, hresult, htrace⟩ := setPixels_completes hidle hchunk htokens hend hans
  refine ⟨t, _, u, _, hexec, hrun, hphase, hresult, hsame ▸ htrace, ?wire, ?frames⟩
  case wire =>
    rw [okEvents_append, wire_append, wire_windowPrims, wire_streamPrims hchunk]
    rfl
  case frames =>
    change dataSends _ = _
    rw [dataSends_append, dataSends_windowPrims, dataSends_streamPrims hchunk]

/-- Settles O31: the stream of no colours has no group, so STREAM ends at its first Pull with nothing staged. -/
theorem emptyStreamSendsNoDataFrame : Obligations.EmptyStreamSendsNoDataFrame := by
  intro s sx sy ex ey e rest hidle htokens hend hchunk hans
  have hnone : windowPrims s.cfg sx sy ex ey ++ streamPrims s.cfg [] = windowPrims s.cfg sx sy ex ey :=
    List.append_nil _
  obtain ⟨t, hexec, hsame, u, hrun, hphase, hresult, htrace⟩ :=
    setPixels_completes (cs := []) hidle hchunk htokens hend (hnone.symm ▸ hans)
  exact ⟨t, u, hexec, hrun, hphase, hresult, by rw [htrace, hsame, hnone]; rfl⟩

end Sys2Proof.Machine
end

section
/-! What a step of a busy block does to TRACE: no operation of a step appends a failed event but the abort
(spec/60_exceptions.md R175). -/

namespace Sys2Proof.Machine

/-- The three ways an operation of a running request can go: it performs no event-emitting primitive, it performs one that
is answered OK, or it performs one that fails, and the request is aborted. -/
inductive Went (s t : State) : Prop where
  | quiet (htrace : t.trace = s.trace)
  | succeeded (p : Prim) (htrace : t.trace = s.trace ++ [⟨p, .ok⟩])
  | aborted (p : Prim) (e : ErrorKind) (herror : p.error = some e) (habort : t = (s.performed p .fail).abort e)

/-- The work that is left does not matter: an abort drops it. -/
theorem Went.of_withTodo {s t : State} {ops : List MicroOp} (h : Went (s.withTodo ops) t) : Went s t := by
  cases h with
  | quiet htrace => exact .quiet htrace
  | succeeded p htrace => exact .succeeded p htrace
  | aborted p e herror habort => exact .aborted p e herror (by simpa using habort)

/-- A failed event in TRACE is the work of an abort. -/
theorem Went.aborted_of_failed {s t : State} {p : Prim} (h : Went s t) (hfailed : t.trace = s.trace ++ [⟨p, .fail⟩]) :
    ∃ e, p.error = some e ∧ t = (s.performed p .fail).abort e := by
  cases h with
  | quiet htrace => simp [htrace] at hfailed
  | succeeded q htrace => simp [htrace] at hfailed
  | aborted q e herror habort =>
    have hsame : q = p := by simpa [habort] using hfailed
    exact hsame ▸ ⟨e, herror, habort⟩

theorem settle_went {ops : List MicroOp} {s t : State} (h : settle ops s = .next t) : Went s t :=
  .quiet (settle_spec h).trace

theorem runPrim_went {p : Prim} {s t : State} (h : runPrim p s = .next t) : Went s t := by
  rcases runPrim_cases h with ⟨hsettle, -⟩ | ⟨e, herror, -, habort⟩
  · exact .succeeded p (settle_spec hsettle).trace
  · exact .aborted p e herror habort

theorem runFrame_went {ps : List Prim} {s t : State} (h : runFrame ps s = .next t) : Went s t := by
  cases ps with
  | nil => exact settle_went h
  | cons p rest => exact (runPrim_went h).of_withTodo

/-- A Pull emits no event, whatever it is answered with (R12, R125). -/
theorem runPull_trace {s t : State} (h : runPull s = .next t) : t.trace = s.trace := by
  unfold runPull at h
  split at h
  · cases h; rfl
  · split at h
    · exact (settle_spec h).trace
    · split at h
      · cases h
      · rename_i hstage
        obtain ⟨-, rfl⟩ := State.stageWord_some hstage
        split at h
        · exact (settle_spec h).trace
        · cases h; rfl

/-- A busy block accepts no request (R26, R101), so an instruction's only event is its frame's first primitive. -/
theorem exec_went {i : Instr} {s t : State} (h : exec i s = .next t) (hbusy : s.phase = .busy) : Went s t := by
  obtain ⟨q, x, y, z, w, work, -, heq⟩ | ⟨q, x, y, z, w, work, heq⟩ | heq := exec_shape i <;> rw [heq] at h
  · rw [accept_busy hbusy] at h; cases h; exact .quiet rfl
  · rw [acceptTimed_busy hbusy] at h; cases h; exact .quiet rfl
  · exact runFrame_went h

theorem busyStep_went {s t : State} (h : busyStep s = .next t) (hbusy : s.phase = .busy) : Went s t := by
  unfold busyStep at h
  split at h
  · exact (runPrim_went h).of_withTodo
  · exact (Went.quiet (runPull_trace h)).of_withTodo
  · exact (exec_went h hbusy).of_withTodo
  · exact settle_went h
  · exact settle_went h
  · exact settle_went h
  · exact settle_went h
  · cases h; exact .quiet rfl

theorem step_went {s t : State} (h : step s = .next t) (hbusy : s.phase = .busy) : Went s t := by
  simp only [step, blockStep, hbusy] at h
  exact busyStep_went h hbusy

/-- Settles O37: of the three ways a step can go only the abort appends a failed event, and the abort's state is known
field by field. -/
theorem failingPrimitiveAborts : Obligations.FailingPrimitiveAborts := by
  refine ⟨fun s p rest hbusy htodo hfallible hfail => ?_, fun s t p hbusy hstep hfailed => ?_⟩
  · obtain ⟨e, herror⟩ := Option.isSome_iff_exists.mp hfallible
    exact ⟨_, (step_busy_prim hbusy htodo).trans (runPrim_withTodo_fail rest herror hfail), rfl⟩
  · obtain ⟨e, herror, rfl⟩ := (step_went hstep hbusy).aborted_of_failed hfailed
    refine ⟨?result, ⟨_, rfl, rfl⟩, rfl, rfl, rfl, rfl, ?rst, ?cs, ?dc, rfl, rfl, rfl, rfl, rfl, rfl, rfl, rfl,
      fun _ => rfl⟩
    case result => cases p <;> cases herror <;> rfl
    case rst => cases p <;> rfl
    case cs => cases p <;> rfl
    case dc => cases p <;> rfl

end Sys2Proof.Machine
end

section
/-! What the controller received of a trace that ends in one more event (spec/60_exceptions.md R176). -/

namespace Sys2Proof.Machine

/-- Event number `tr.length` delivers what its own draw says, after all that was received before. -/
theorem received_concat (j : Nat → Nat) (tr : List Event) (e : Event) :
    received j (tr ++ [e]) = received j tr ++ e.delivered (j tr.length) := by
  simp [received, List.zipIdx_append]

/-- A failed transaction delivers as many of its bytes as its draw says. -/
theorem received_failed (j : Nat → Nat) (tr : List Event) (c : Ctx) (bytes : List Byte) :
    received j (tr ++ [⟨.send c bytes, .fail⟩]) =
      received j tr ++ (bytes.take (j tr.length)).map fun b => (c, b) :=
  received_concat j tr _

/-- Only the draws of the trace's own events matter. -/
theorem received_update (j : Nat → Nat) (tr : List Event) (k : Nat) :
    received (Function.update j tr.length k) tr = received j tr := by
  refine List.flatMap_congr fun p hp => ?_
  have hlt : p.2 < tr.length := List.snd_lt_of_mem_zipIdx hp
  rw [Function.update_of_ne hlt.ne]

/-- Settles O38: the last event's draw takes a prefix of its bytes, and as no other event reads that draw, it may be any. -/
theorem failedTransactionDeliversAPrefix : Obligations.FailedTransactionDeliversAPrefix := by
  intro j tr c bytes
  refine ⟨?wire, ⟨bytes.take (j tr.length), bytes.drop (j tr.length), (List.take_append_drop _ _).symm, ?some⟩, ?any⟩
  case wire => exact (wire_append _ _).trans (List.append_nil _)
  case some => exact received_failed j tr c bytes
  case any =>
    rintro pre post rfl
    refine ⟨Function.update j tr.length pre.length, ?_⟩
    rw [received_failed, received_update, Function.update_self, List.take_left]

end Sys2Proof.Machine
end

section
/-! Encoding and decoding undo each other (spec/30_encoding.md R70 to R88): request codes, descriptors, frames. -/

namespace Sys2Proof

/-! ### Request codes -/

@[simp] theorem oriCode_oriOfCode (o : BitVec 2) : oriCode (oriOfCode o) = o := by
  revert o
  decide

/-- A request code with RSV = 0 is its two fields. -/
theorem reqByte_fields {r : Byte} (hrsv : reqRsv r = 0#2) : reqByte (reqOri r) (reqOp r) = r := by
  have hzero := (reqRsv_eq_zero_iff r).mp hrsv
  apply BitVec.eq_of_toNat_eq
  rw [reqByte_toNat, reqOri_toNat, reqOp_toNat]
  omega

/-! ### Descriptors -/

theorem decodeDesc_descOf (q : Byte) (a b c d : Word) : decodeDesc (descOf q a b c d) = decodeReq q a b c d := by
  simp [decodeDesc]

/-- The operand words of a request are read back from its bytes. -/
theorem descOfBytes_encodeOperands (q : Byte) (a b c d : Word) :
    descOfBytes (q :: encodeOperands a b c d) = descOf q a b c d := by
  simp [encodeOperands, be16, descOfBytes]

@[simp] theorem encodeDesc_init (a b c d : Word) : encodeDesc (.init a b c d) = descOf (reqByte 0#2 1#4) a b c d :=
  descOfBytes_encodeOperands ..

@[simp] theorem encodeDesc_hardReset (a b c d : Word) :
    encodeDesc (.hardReset a b c d) = descOf (reqByte 0#2 2#4) a b c d :=
  descOfBytes_encodeOperands ..

@[simp] theorem encodeDesc_setOrientation (ori : Orientation) (a b c d : Word) :
    encodeDesc (.setOrientation ori a b c d) = descOf (reqByte (oriCode ori) 3#4) a b c d :=
  descOfBytes_encodeOperands ..

@[simp] theorem encodeDesc_setPixel (x y color d : Word) :
    encodeDesc (.setPixel x y color d) = descOf (reqByte 0#2 4#4) x y color d :=
  descOfBytes_encodeOperands ..

@[simp] theorem encodeDesc_setPixels (sx sy ex ey : Word) :
    encodeDesc (.setPixels sx sy ex ey) = descOf (reqByte 0#2 5#4) sx sy ex ey :=
  descOfBytes_encodeOperands ..

/-- A request's descriptor decodes to it (R70 to R74). -/
theorem decodeDesc_encodeDesc {i : Instr} (hi : i.port = .request) : decodeDesc (encodeDesc i) = .ok i := by
  cases i with
  | init a b c d => simp [decodeDesc_descOf, decodeReq]
  | hardReset a b c d => simp [decodeDesc_descOf, decodeReq]
  | setOrientation ori a b c d => simp [decodeDesc_descOf, decodeReq]
  | setPixel x y color d => simp [decodeDesc_descOf, decodeReq]
  | setPixels sx sy ex ey => simp [decodeDesc_descOf, decodeReq]
  | _ => cases hi

/-- A request's bytes are its request code and its operand words, and its descriptor has the same five fields. -/
theorem encode_request {i : Instr} (hi : i.port = .request) :
    ∃ q a b c d, encodeDesc i = descOf q a b c d ∧ ∀ o, encode o i = q :: encodeOperands a b c d := by
  cases i with
  | init a b c d => exact ⟨_, a, b, c, d, encodeDesc_init a b c d, fun _ => rfl⟩
  | hardReset a b c d => exact ⟨_, a, b, c, d, encodeDesc_hardReset a b c d, fun _ => rfl⟩
  | setOrientation ori a b c d => exact ⟨_, a, b, c, d, encodeDesc_setOrientation ori a b c d, fun _ => rfl⟩
  | setPixel x y color d => exact ⟨_, x, y, color, d, encodeDesc_setPixel x y color d, fun _ => rfl⟩
  | setPixels sx sy ex ey => exact ⟨_, sx, sy, ex, ey, encodeDesc_setPixels sx sy ex ey, fun _ => rfl⟩
  | _ => cases hi

/-- A request is read back from its bytes, whatever bytes follow. -/
theorem decodeRequest_encode (o : Opcodes) {i : Instr} (hi : i.port = .request) (rest : List Byte) :
    decodeRequest (encode o i ++ rest) = .ok (i, rest) := by
  obtain ⟨q, a, b, c, d, hdesc, hbytes⟩ := encode_request hi
  have hdecode : decodeReq q a b c d = .ok i := by
    rw [← decodeDesc_descOf, ← hdesc]
    exact decodeDesc_encodeDesc hi
  simp [hbytes, encodeOperands, be16, decodeRequest, hdecode]

/-- Settles O4: each of the two encodings is undone by its own decoder. -/
theorem decodeOfEncode : Obligations.DecodeOfEncode := by
  intro o i rest hopc _
  cases hport : i.port with
  | request => exact decodeRequest_encode o hport rest
  | bus => exact decodeFrame_encode hopc hport rest

/-- The descriptor with request code req, as R70 writes it out. -/
theorem ofNat_eq_encodeDesc {i : Instr} {req : Nat} {q : Byte} {a b c d : Word} (hdesc : encodeDesc i = descOf q a b c d)
    (hcode : q.toNat = req) :
    BitVec.ofNat 72 ((((req * 65536 + a.toNat) * 65536 + b.toNat) * 65536 + c.toNat) * 65536 + d.toNat) =
      encodeDesc i := by
  rw [hdesc, ← hcode, ← descOf_toNat, BitVec.ofNat_toNat, BitVec.setWidth_eq]

/-- Settles O2: each descriptor written out is the encoding of its request, and decoding undoes encoding. -/
theorem descriptorFieldsAreRead : Obligations.DescriptorFieldsAreRead := by
  intro a b c d desc
  have hread : ∀ {i q req}, i.port = .request → encodeDesc i = descOf q a b c d → q.toNat = req →
      decodeDesc (desc req) = .ok i := fun hi hdesc hcode =>
    (congrArg decodeDesc (ofNat_eq_encodeDesc hdesc hcode)).trans (decodeDesc_encodeDesc hi)
  exact ⟨hread rfl (encodeDesc_init ..) rfl, hread rfl (encodeDesc_hardReset ..) rfl,
    hread rfl (encodeDesc_setOrientation ..) rfl, hread rfl (encodeDesc_setOrientation ..) rfl,
    hread rfl (encodeDesc_setOrientation ..) rfl, hread rfl (encodeDesc_setOrientation ..) rfl,
    hread rfl (encodeDesc_setPixel ..) rfl, hread rfl (encodeDesc_setPixels ..) rfl⟩

/-- The decoder's answers, in its order: SET_ORIENTATION with any ORI, then the four requests with ORI = 0. -/
theorem encodeDesc_of_decodeReq {q : Byte} {a b c d : Word} {i : Instr} (h : decodeReq q a b c d = .ok i) :
    encodeDesc i = descOf q a b c d ∧ i.port = .request := by
  unfold decodeReq at h
  by_cases hrsv : reqRsv q = 0#2
  case neg => simp [hrsv] at h
  have hcode := reqByte_fields hrsv
  rw [if_neg (not_not.mpr hrsv)] at h
  by_cases hthree : reqOp q = 3#4
  case pos =>
    rw [if_pos hthree] at h
    cases h
    simp [← hthree, hcode, Instr.port]
  rw [if_neg hthree] at h
  by_cases hrange : (reqOp q).toNat = 0 ∨ 5 < (reqOp q).toNat
  case pos => simp [hrange] at h
  rw [if_neg hrange] at h
  by_cases hori : reqOri q = 0#2
  case neg => simp [hori] at h
  rw [if_neg (not_not.mpr hori)] at h
  rw [hori] at hcode
  split_ifs at h with hone htwo hfour <;> cases h
  · simp [← hone, hcode, Instr.port]
  · simp [← htwo, hcode, Instr.port]
  · simp [← hfour, hcode, Instr.port]
  · have hfive : reqOp q = 5#4 := by bv_omega
    simp [← hfive, hcode, Instr.port]

theorem encodeDesc_of_decodeDesc {d : Desc} {i : Instr} (h : decodeDesc d = .ok i) :
    encodeDesc i = d ∧ i.port = .request := by
  simpa using encodeDesc_of_decodeReq h

/-- Settles O5: of the decoder's answers each keeps the request code and the four operand fields. -/
theorem encodeOfDecodedDescriptor : Obligations.EncodeOfDecodedDescriptor :=
  fun _ _ => encodeDesc_of_decodeDesc

/-! ### Tokens, assembled lines, words written out -/

/-- The END flag as a number (R78). -/
theorem endFlag_iff (t : Token) : t.extractLsb' 16 1 = 1#1 ↔ 65536 ≤ t.toNat := by
  rw [← BitVec.toNat_inj, BitVec.extractLsb'_toNat, Nat.shiftRight_eq_div_pow, BitVec.toNat_ofNat]
  omega

/-- Settles O7: bit 16 of a token is its number's comparison with 65536. -/
theorem tokensAreRead : Obligations.TokensAreRead := by
  intro t
  unfold tokenItem
  refine ⟨fun hword => ?_, fun hend => if_pos ((endFlag_iff t).mpr hend)⟩
  rw [if_neg (mt (endFlag_iff t).mp (by omega))]
  rfl

/-- Settles O8: a line presents its request's own descriptor, and tokens are read back item by item. -/
theorem assembledLineIsItsRequest : Obligations.AssembledLineIsItsRequest := by
  have hread : ∀ l : Machine.AsmLine, decodeDesc (encodeDesc l.instr) = .ok l.instr := fun l =>
    decodeDesc_encodeDesc (by cases l <;> rfl)
  refine ⟨⟨_, _, rfl, hread .init, rfl, rfl⟩, ⟨_, _, rfl, hread .hardReset, rfl, rfl⟩,
    fun ori => ⟨_, _, rfl, hread (.setOrientation ori), rfl, rfl⟩,
    fun x y color => ⟨_, _, rfl, hread (.setPixel x y color), rfl, rfl⟩,
    fun sx sy ex ey cs => ⟨_, _, rfl, hread (.setPixels sx sy ex ey cs), rfl, ?_⟩⟩
  simp [Machine.AsmLine.stream, Function.comp_def]

/-- Settles O1: the words are literals, and the decoders compute. -/
theorem writtenOutWordsDecode : Obligations.WrittenOutWordsDecode := by
  unfold Obligations.WrittenOutWordsDecode
  decide

end Sys2Proof
end

section
/-! What an idle block's step can do (spec/10_state.md R37, spec/41_init_fsm.md R101, R112): it waits, answers a read of
RESULT, refuses, or accepts a request, whose acceptance is one function of the request. -/

namespace Sys2Proof.Machine

/-! ### Acceptance -/

/-- The work a request begins with, from its operands (R103, R104, R120, R122, R128). A controller command is accepted by
no block and brings none. -/
def requestWork : Instr → List MicroOp
  | .init _ _ _ _ => initWork
  | .hardReset _ _ _ _ => hardResetSeq
  | .setOrientation ori _ _ _ _ => [.cmd (.madctl (oriByte ori))]
  | .setPixel x y _ _ => window x y x y ++ [.cmd .ramwr, .stagePixel, .flush]
  | .setPixels sx sy ex ey => window sx sy ex ey ++ [.cmd .ramwr, .clearFill, .pull]
  | _ => []

/-- The request needs the Delay Provider (R112). -/
def needsDelay : Instr → Bool
  | .init _ _ _ _ => true
  | .hardReset _ _ _ _ => true
  | _ => false

/-- The five fields of a descriptor are latched (R101). -/
def State.latchDesc (desc : Desc) (s : State) : State :=
  s.latch (descReq desc) (descA desc) (descB desc) (descC desc) (descD desc)

theorem State.latchDesc_descOf (q : Byte) (a b c d : Word) (s : State) :
    s.latchDesc (descOf q a b c d) = s.latch q a b c d := by
  simp [State.latchDesc]

/-- The state in which a request has been accepted (R101); the two that need the Delay Provider clear CTL_INIT. -/
def State.accepted (i : Instr) (s : State) : State :=
  ((s.latchDesc (encodeDesc i)).setCtlInit (!needsDelay i && s.ctlInit)).withTodo (requestWork i)

/-- The state in which a request has been refused for want of a Delay Provider (R112, notes/assumptions/5.md). -/
def State.refusedDelay (i : Instr) (s : State) : State :=
  { (s.latchDesc (encodeDesc i)).refuse .noDelayProvider with phase := .idle }

theorem exec_accepted {i : Instr} {s : State} (hi : i.port = .request) (hidle : s.phase = .idle)
    (hdelay : needsDelay i = true → s.cfg.hasDelay = true) : exec i s = .next (s.accepted i) := by
  cases i with
  | init a b c d =>
    rw [State.accepted, encodeDesc_init, State.latchDesc_descOf]
    exact acceptTimed_idle hidle (hdelay rfl) ..
  | hardReset a b c d =>
    rw [State.accepted, encodeDesc_hardReset, State.latchDesc_descOf]
    exact acceptTimed_idle hidle (hdelay rfl) ..
  | setOrientation ori a b c d =>
    have hwork : orientationWork (s.latch (reqByte (oriCode ori) 3#4) a b c d) =
        requestWork (.setOrientation ori a b c d) := by simp [orientationWork, requestWork]
    rw [State.accepted, encodeDesc_setOrientation, State.latchDesc_descOf, ← hwork]
    exact accept_idle hidle ..
  | setPixel x y color d =>
    rw [State.accepted, encodeDesc_setPixel, State.latchDesc_descOf]
    exact accept_idle hidle ..
  | setPixels sx sy ex ey =>
    rw [State.accepted, encodeDesc_setPixels, State.latchDesc_descOf]
    exact accept_idle hidle ..
  | _ => cases hi

theorem exec_refusedDelay {i : Instr} {s : State} (hi : needsDelay i = true) (hidle : s.phase = .idle)
    (hdelay : s.cfg.hasDelay = false) : exec i s = .next (s.refusedDelay i) := by
  cases i with
  | init a b c d =>
    rw [State.refusedDelay, encodeDesc_init, State.latchDesc_descOf]
    exact acceptTimed_noDelay hidle hdelay ..
  | hardReset a b c d =>
    rw [State.refusedDelay, encodeDesc_hardReset, State.latchDesc_descOf]
    exact acceptTimed_noDelay hidle hdelay ..
  | _ => cases hi

/-- Settles O20: each of the three needs no Delay Provider, and its acceptance is written out. -/
theorem drawingRequestsAreAccepted : Obligations.DrawingRequestsAreAccepted := by
  intro s a b c d hidle
  refine ⟨fun ori => ?orientation, ?pixel, ?pixels⟩
  case orientation =>
    rw [exec_accepted rfl hidle (by simp [needsDelay]), State.accepted, encodeDesc_setOrientation,
      State.latchDesc_descOf]
    rfl
  case pixel =>
    rw [exec_accepted rfl hidle (by simp [needsDelay]), State.accepted, encodeDesc_setPixel, State.latchDesc_descOf]
    rfl
  case pixels =>
    rw [exec_accepted rfl hidle (by simp [needsDelay]), State.accepted, encodeDesc_setPixels, State.latchDesc_descOf]
    rfl

/-- Settles O21: with the Delay Provider the two are accepted, and the work of both begins with the hard reset. -/
theorem timedRequestsAreAccepted : Obligations.TimedRequestsAreAccepted := by
  intro s a b c d hidle hdelay
  refine ⟨⟨hardResetSeq.tail, ?reset⟩, ⟨initWork.tail, ?init⟩⟩
  case reset =>
    rw [exec_accepted rfl hidle fun _ => hdelay, State.accepted, encodeDesc_hardReset, State.latchDesc_descOf]
    rfl
  case init =>
    rw [exec_accepted rfl hidle fun _ => hdelay, State.accepted, encodeDesc_init, State.latchDesc_descOf]
    rfl

/-- Settles O22: the refused state differs from the one before in the latches, PHASE and the refusal's own fields. -/
theorem noDelayProviderRefuses : Obligations.NoDelayProviderRefuses := by
  rintro s a b c d i hidle hdelay (rfl | rfl)
  all_goals exact ⟨_, exec_refusedDelay rfl hidle hdelay, rfl, rfl, rfl, rfl, rfl⟩

/-! ### The step -/

/-- The step of an idle block presented with a descriptor that decodes. -/
theorem step_of_presented {desc : Desc} {i : Instr} {s : State} {stream : TokenStream} {rest : List HostOp}
    (hdecode : decodeDesc desc = .ok i) (hidle : s.phase = .idle) (hops : s.hostOps = .request desc stream :: rest) :
    step s = exec i (s.withHost rest stream) := by
  simp only [step, blockStep, hidle, idleStep, hops, hdecode]

/-- Settles O9: an idle block's step looks at what is presented and executes what its descriptor decodes to. -/
theorem stepExecutesThePresentedRequest : Obligations.StepExecutesThePresentedRequest :=
  fun _ _ _ _ _ hidle hops hdecode => step_of_presented hdecode hidle hops

/-- The step of an idle block presented with nothing. -/
theorem step_of_nothing {s : State} (hidle : s.phase = .idle) (hops : s.hostOps = []) : step s = .next s := by
  simp only [step, blockStep, hidle, idleStep, hops]

/-- The step of an idle block whose host reads RESULT. -/
theorem step_of_read {s : State} {rest : List HostOp} (hidle : s.phase = .idle) (hops : s.hostOps = .readResult :: rest) :
    step s = .next (s.withHost rest s.stream).readResult := by
  simp only [step, blockStep, hidle, idleStep, hops]

theorem State.readResult_of_some {s : State} {r : Result} (h : s.result = some r) :
    s.readResult = { s with responses := s.responses ++ [r] } := by
  simp only [State.readResult, h]

theorem State.readResult_of_none {s : State} (h : s.result = none) :
    s.readResult = s.refuse .resultReadBeforeCompletion := by
  simp only [State.readResult, h]

/-- Settles O18: a read is answered from RESULT, or refused where RESULT holds no value. -/
theorem resultIsReadAfterCompletionOnly : Obligations.ResultIsReadAfterCompletionOnly := by
  intro s rest hidle hops
  rw [step_of_read hidle hops]
  exact ⟨fun r hr => congrArg _ (State.readResult_of_some (s := s.withHost rest s.stream) hr),
    fun hr => congrArg _ (State.readResult_of_none (s := s.withHost rest s.stream) hr)⟩

/-- All that the step of an idle block can be. -/
inductive IdleStep (s : State) : State → Prop where
  /-- Nothing is presented. -/
  | waits (hops : s.hostOps = []) : IdleStep s s
  /-- RESULT is read. -/
  | reads (rest : List HostOp) (r : Result) (hops : s.hostOps = .readResult :: rest) (hresult : s.result = some r) :
      IdleStep s { s.withHost rest s.stream with responses := s.responses ++ [r] }
  /-- A reserved descriptor or an early read is refused. -/
  | refuses (op : HostOp) (rest : List HostOp) (r : RefuseReason) (hops : s.hostOps = op :: rest) :
      IdleStep s ((s.withHost rest s.stream).refuse r)
  /-- A request is accepted. -/
  | accepts (i : Instr) (stream : TokenStream) (rest : List HostOp) (hi : i.port = .request)
      (hops : s.hostOps = .request (encodeDesc i) stream :: rest)
      (hdelay : needsDelay i = true → s.cfg.hasDelay = true) : IdleStep s ((s.withHost rest stream).accepted i)
  /-- A request is refused for want of a Delay Provider. -/
  | refusesDelay (i : Instr) (stream : TokenStream) (rest : List HostOp)
      (hops : s.hostOps = .request (encodeDesc i) stream :: rest) :
      IdleStep s ((s.withHost rest stream).refusedDelay i)

/-- An idle block's step answers a next state, which is one of those. -/
theorem step_idle {s : State} (hidle : s.phase = .idle) : ∃ t, step s = .next t ∧ IdleStep s t := by
  rcases hops : s.hostOps with _ | ⟨⟨desc, stream⟩ | _, rest⟩
  · exact ⟨s, step_of_nothing hidle hops, .waits hops⟩
  · cases hdecode : decodeDesc desc with
    | error e => exact ⟨_, step_of_reserved hdecode hidle hops, .refuses _ rest _ hops⟩
    | ok i =>
      obtain ⟨rfl, hi⟩ := encodeDesc_of_decodeDesc hdecode
      have hstep := step_of_presented hdecode hidle hops
      by_cases hdelay : needsDelay i = true → s.cfg.hasDelay = true
      case pos => exact ⟨_, hstep.trans (exec_accepted hi hidle hdelay), .accepts i stream rest hi hops hdelay⟩
      case neg =>
        obtain ⟨hneeds, hnone⟩ := Classical.not_imp.mp hdelay
        exact ⟨_, hstep.trans (exec_refusedDelay hneeds hidle (by simpa using hnone)), .refusesDelay i stream rest hops⟩
  · refine ⟨_, step_of_read hidle hops, ?_⟩
    cases hresult : s.result with
    | some r =>
      rw [State.readResult_of_some (s := s.withHost rest s.stream) hresult]
      exact .reads rest r hops hresult
    | none =>
      rw [State.readResult_of_none (s := s.withHost rest s.stream) hresult]
      exact .refuses _ rest _ hops

theorem idleStep_of_step {s t : State} (hidle : s.phase = .idle) (hstep : step s = .next t) : IdleStep s t := by
  obtain ⟨u, hu, h⟩ := step_idle hidle
  cases hu.symm.trans hstep
  exact h

end Sys2Proof.Machine
end

section
/-! What a busy block's step can do (spec/10_state.md R27, R195): it performs at most one primitive, and the register
writes behind it settle, or it fails and aborts. The rules over every step follow from this and `IdleStep`. -/

namespace Sys2Proof.Machine

/-! ### The operations of a busy block -/

/-- The state x that one primitive, or none, makes of s before what stands behind it settles. -/
inductive Moved (s : State) : State → Prop where
  | stays : Moved s s
  | performs (p : Prim) (hok : p.fallible = true → s.nextAnswer = .ok) : Moved s (s.performed p .ok)
  | pullsEnd (e : Token) (st : TokenStream) (hpull : s.stream.pull = some (e, st))
      (hend : tokenItem e = .endOfStream) : Moved s (s.pulled st)
  | pullsWord (e : Token) (c : Word) (st : TokenStream) (hpull : s.stream.pull = some (e, st))
      (hword : tokenItem e = .word c) : Moved s ((s.pulled st).staged c)

/-- The entries ops are the end of the work todo, with nothing in front of it but primitives of a frame and the start of a
flush. -/
def ComesFrom (todo ops : List MicroOp) : Prop :=
  ∃ pre post, ops = pre ++ post ∧ post <:+ todo ∧ ∀ m ∈ pre, (∃ p, m = .prim p) ∨ m = .flush

theorem ComesFrom.refl (todo : List MicroOp) : ComesFrom todo todo := ⟨[], todo, rfl, List.suffix_rfl, by simp⟩

theorem ComesFrom.tail {m : MicroOp} {rest ops : List MicroOp} (h : ComesFrom rest ops) :
    ComesFrom (m :: rest) ops := by
  obtain ⟨pre, post, heq, hpost, hpre⟩ := h
  exact ⟨pre, post, heq, hpost.trans (List.suffix_cons m rest), hpre⟩

theorem ComesFrom.prims {todo ops : List MicroOp} (ps : List Prim) (h : ComesFrom todo ops) :
    ComesFrom todo (ps.map .prim ++ ops) := by
  obtain ⟨pre, post, rfl, hpost, hpre⟩ := h
  refine ⟨ps.map .prim ++ pre, post, by simp, hpost, fun m hm => ?_⟩
  rcases List.mem_append.mp hm with hprim | hold
  · obtain ⟨p, -, rfl⟩ := List.mem_map.mp hprim
    exact .inl ⟨p, rfl⟩
  · exact hpre m hold

theorem ComesFrom.flush {todo ops : List MicroOp} (h : ComesFrom todo ops) : ComesFrom todo (.flush :: ops) := by
  obtain ⟨pre, post, rfl, hpost, hpre⟩ := h
  exact ⟨.flush :: pre, post, rfl, hpost, by simpa using hpre⟩

/-- An entry that is neither a primitive nor a flush stood in the work before, with the same entries behind it. -/
theorem ComesFrom.suffix {todo ops r : List MicroOp} {m : MicroOp} (h : ComesFrom todo ops) (hprim : ∀ p, m ≠ .prim p)
    (hflush : m ≠ .flush) (hm : m :: r <:+ ops) : m :: r <:+ todo := by
  obtain ⟨pre, post, rfl, hpost, hpre⟩ := h
  induction pre with
  | nil => exact List.IsSuffix.trans hm hpost
  | cons n pre ih =>
    rcases List.suffix_cons_iff.mp hm with heq | hrest
    · obtain ⟨rfl, -⟩ := List.cons.inj heq
      rcases hpre m List.mem_cons_self with ⟨p, hp⟩ | hf
      · exact absurd hp (hprim p)
      · exact absurd hf hflush
    · exact ih hrest fun k hk => hpre k (List.mem_cons_of_mem n hk)

theorem ComesFrom.mem {todo ops : List MicroOp} {m : MicroOp} (h : ComesFrom todo ops) (hprim : ∀ p, m ≠ .prim p)
    (hflush : m ≠ .flush) (hm : m ∈ ops) : m ∈ todo := by
  obtain ⟨pre, post, rfl⟩ := List.append_of_mem hm
  exact (h.suffix hprim hflush (List.suffix_append pre _)).subset List.mem_cons_self

/-- Work that ends in the Pull of STREAM's loop still does. -/
def KeepsPull (todo ops : List MicroOp) : Prop := todo.getLast? = some .pull → ops.getLast? = some .pull

theorem KeepsPull.tail {m : MicroOp} {rest ops : List MicroOp} (hm : m ≠ .pull) (h : KeepsPull rest ops) :
    KeepsPull (m :: rest) ops := by
  intro hlast
  cases rest with
  | nil => exact absurd (by simpa using hlast) hm
  | cons n rest => exact h (by simpa using hlast)

theorem KeepsPull.prims {todo ops : List MicroOp} (ps : List Prim) (h : KeepsPull todo ops) :
    KeepsPull todo (ps.map .prim ++ ops) := fun hlast => by simp [List.getLast?_append, h hlast]

theorem KeepsPull.flush {todo ops : List MicroOp} (h : KeepsPull todo ops) : KeepsPull todo (.flush :: ops) :=
  fun hlast => by simp [List.getLast?_cons, h hlast]

/-- The next Pull is answered with END. -/
def StreamEnds (s : State) : Prop := ∃ e st, s.stream.pull = some (e, st) ∧ tokenItem e = .endOfStream

/-- All that an operation of a busy block can be, where todo is the work it draws on. -/
inductive BusyStep (todo : List MicroOp) (s t : State) : Prop where
  /-- A primitive fails, and the request is aborted. -/
  | aborts (p : Prim) (e : ErrorKind) (herror : p.error = some e) (hfail : s.nextAnswer = .fail)
      (habort : t = (s.performed p .fail).abort e)
  /-- At most one primitive is performed, and the work behind it settles. -/
  | goesOn (x : State) (ops : List MicroOp) (hmoved : Moved s x) (hfrom : ComesFrom todo ops)
      (hpull : KeepsPull todo ops ∨ StreamEnds s) (hsettle : settle ops x = .next t)
  /-- A request stands where a command should: a busy block accepts none. No run reaches this. -/
  | drops (i : Instr) (ops : List MicroOp) (hi : i.port = .request) (htodo : s.todo = .cmd i :: ops)
      (hdrop : t = s.withTodo ops)

theorem runPrim_busyStep {p : Prim} {todo ops : List MicroOp} {s t : State} (hfrom : ComesFrom todo ops)
    (hpull : KeepsPull todo ops) (h : runPrim p (s.withTodo ops) = .next t) : BusyStep todo s t := by
  rcases runPrim_cases h with ⟨hsettle, hok⟩ | ⟨e, herror, hfail, habort⟩
  · exact .goesOn _ ops (.performs p hok) hfrom (.inl hpull) (by simpa using hsettle)
  · exact .aborts p e herror hfail (by simpa using habort)

theorem runFrame_busyStep {i : Instr} {ps : List Prim} {rest : List MicroOp} {s t : State}
    (h : runFrame ps (s.withTodo rest) = .next t) : BusyStep (.cmd i :: rest) s t := by
  have hfrom : ComesFrom (.cmd i :: rest) rest := (ComesFrom.refl rest).tail
  have hpull : KeepsPull (.cmd i :: rest) rest := KeepsPull.tail (by simp) id
  cases ps with
  | nil => exact .goesOn s rest .stays hfrom (.inl hpull) (by simpa [runFrame] using h)
  | cons p qs => exact runPrim_busyStep (hfrom.prims qs) (hpull.prims qs) h

theorem runPull_busyStep {rest : List MicroOp} {s t : State} (h : runPull (s.withTodo rest) = .next t) :
    BusyStep (.pull :: rest) s t := by
  have hfrom : ComesFrom (.pull :: rest) (.pull :: rest) := .refl _
  have hkeeps : KeepsPull (.pull :: rest) (.pull :: rest) := id
  unfold runPull at h
  rw [State.withTodo_stream] at h
  split at h
  · exact .goesOn s (.pull :: rest) .stays hfrom (.inl hkeeps) (by simpa [settle] using h)
  · rename_i e st hpull
    split at h
    · rename_i hend
      refine .goesOn _ (.flush :: rest) (.pullsEnd e st hpull hend) (ComesFrom.refl rest).tail.flush
        (.inr ⟨e, st, hpull, hend⟩) ?_
      exact (settle_withTodo _ rest (s.pulled st)).symm.trans h
    · rename_i c hword
      have hmoved := Moved.pullsWord e c st hpull hword
      split at h
      · cases h
      · rename_i hstage
        obtain ⟨-, rfl⟩ := State.stageWord_some hstage
        split at h
        · refine .goesOn _ (.flush :: .pull :: rest) hmoved hfrom.flush (.inl hkeeps.flush) ?_
          exact (settle_withTodo _ rest ((s.pulled st).staged c)).symm.trans h
        · exact .goesOn _ (.pull :: rest) hmoved hfrom (.inl hkeeps) h

/-- A busy block accepts no request (R26, R101). -/
theorem exec_busy {i : Instr} {s : State} (hi : i.port = .request) (hbusy : s.phase = .busy) : exec i s = .next s := by
  cases i with
  | init a b c d => exact acceptTimed_busy hbusy ..
  | hardReset a b c d => exact acceptTimed_busy hbusy ..
  | setOrientation ori a b c d => exact accept_busy hbusy ..
  | setPixel x y color d => exact accept_busy hbusy ..
  | setPixels sx sy ex ey => exact accept_busy hbusy ..
  | _ => cases hi

/-- Settles O10: a busy block's step looks at the head of its work and executes the command there. -/
theorem stepExecutesTheIssuedCommand : Obligations.StepExecutesTheIssuedCommand :=
  fun _ _ _ hbusy htodo => step_busy_cmd hbusy htodo

theorem step_busy_pull {s : State} {rest : List MicroOp} (hbusy : s.phase = .busy) (htodo : s.todo = .pull :: rest) :
    step s = runPull (s.withTodo rest) := by
  simp only [step, blockStep, hbusy, busyStep, htodo]

/-- A register write at the head of the work, which no run leaves there, settles. -/
theorem step_busy_write {s : State} {m : MicroOp} {rest : List MicroOp} (hbusy : s.phase = .busy)
    (htodo : s.todo = m :: rest) (hwrite : m ∈ [.clearFill, .stagePixel, .flush, .markInit]) :
    step s = settle s.todo s := by
  simp only [List.mem_cons, List.not_mem_nil, or_false] at hwrite
  rcases hwrite with rfl | rfl | rfl | rfl
  all_goals simp only [step, blockStep, hbusy, busyStep, htodo]

theorem busyStep_of_step {s t : State} (hbusy : s.phase = .busy) (hstep : step s = .next t) :
    BusyStep s.todo s t := by
  have hsettles : settle s.todo s = .next t → BusyStep s.todo s t :=
    .goesOn s s.todo .stays (.refl _) (.inl id)
  cases htodo : s.todo with
  | nil =>
    have hdone : step s = settle s.todo s := by simp only [step, blockStep, hbusy, busyStep, htodo, settle]
    exact htodo ▸ hsettles (hdone.symm.trans hstep)
  | cons m rest =>
    cases m with
    | prim p =>
      exact runPrim_busyStep (ComesFrom.refl rest).tail (KeepsPull.tail (by simp) id)
        ((step_busy_prim hbusy htodo).symm.trans hstep)
    | pull => exact runPull_busyStep ((step_busy_pull hbusy htodo).symm.trans hstep)
    | cmd i =>
      have hexec := (step_busy_cmd hbusy htodo).symm.trans hstep
      cases hport : i.port with
      | bus =>
        rw [exec_bus hport] at hexec
        exact runFrame_busyStep hexec
      | request =>
        rw [exec_busy (s := s.withTodo rest) hport hbusy] at hexec
        cases hexec
        exact .drops i rest hport htodo rfl
    | clearFill => exact htodo ▸ hsettles ((step_busy_write hbusy htodo (by simp)).symm.trans hstep)
    | stagePixel => exact htodo ▸ hsettles ((step_busy_write hbusy htodo (by simp)).symm.trans hstep)
    | flush => exact htodo ▸ hsettles ((step_busy_write hbusy htodo (by simp)).symm.trans hstep)
    | markInit => exact htodo ▸ hsettles ((step_busy_write hbusy htodo (by simp)).symm.trans hstep)

/-! ### What every step leaves, counts and records -/

/-- What no step of a busy block writes: the configuration, the latches, what the host presents, and REFUSED. -/
structure Kept (s t : State) : Prop where
  cfg : t.cfg = s.cfg
  req : t.req = s.req
  a : t.a = s.a
  b : t.b = s.b
  c : t.c = s.c
  d : t.d = s.d
  hostOps : t.hostOps = s.hostOps
  refused : t.refused = s.refused
  refusals : t.refusals = s.refusals

theorem Kept.trans {s t u : State} (h : Kept s t) (h' : Kept t u) : Kept s u :=
  ⟨h'.cfg.trans h.cfg, h'.req.trans h.req, h'.a.trans h.a, h'.b.trans h.b, h'.c.trans h.c, h'.d.trans h.d,
    h'.hostOps.trans h.hostOps, h'.refused.trans h.refused, h'.refusals.trans h.refusals⟩

theorem Settled.kept {ops : List MicroOp} {s t : State} (h : Settled ops s t) : Kept s t :=
  ⟨h.cfg, h.req, h.a, h.b, h.c, h.d, h.hostOps, h.refused, h.refusals⟩

theorem Moved.kept {s x : State} (h : Moved s x) : Kept s x := by
  cases h <;> exact ⟨rfl, rfl, rfl, rfl, rfl, rfl, rfl, rfl, rfl⟩

theorem Moved.phase {s x : State} (h : Moved s x) : x.phase = s.phase := by cases h <;> rfl

theorem Moved.ctlInit {s x : State} (h : Moved s x) : x.ctlInit = s.ctlInit := by cases h <;> rfl

theorem BusyStep.kept {todo : List MicroOp} {s t : State} (h : BusyStep todo s t) : Kept s t := by
  cases h with
  | aborts p e _ _ habort => subst habort; exact ⟨rfl, rfl, rfl, rfl, rfl, rfl, rfl, rfl, rfl⟩
  | goesOn x ops hmoved _ _ hsettle => exact hmoved.kept.trans (settle_spec hsettle).kept
  | drops i ops _ _ hdrop => subst hdrop; exact ⟨rfl, rfl, rfl, rfl, rfl, rfl, rfl, rfl, rfl⟩

/-- STEP and TRACE both stay as they are, or STEP counts one primitive, which has at most one event. -/
def CountsOne (s t : State) : Prop :=
  (t.stepCount = s.stepCount ∧ t.trace = s.trace) ∨
    (t.stepCount = s.stepCount + 1 ∧ (t.trace = s.trace ∨ ∃ e, t.trace = s.trace ++ [e]))

theorem Moved.countsOne {s x : State} (h : Moved s x) : CountsOne s x := by
  cases h with
  | stays => exact .inl ⟨rfl, rfl⟩
  | performs p hok => exact .inr ⟨rfl, .inr ⟨_, rfl⟩⟩
  | pullsEnd e st hpull hend => exact .inr ⟨rfl, .inl rfl⟩
  | pullsWord e c st hpull hword => exact .inr ⟨rfl, .inl rfl⟩

theorem BusyStep.countsOne {todo : List MicroOp} {s t : State} (h : BusyStep todo s t) : CountsOne s t := by
  cases h with
  | aborts p e _ _ habort => subst habort; exact .inr ⟨rfl, .inr ⟨_, rfl⟩⟩
  | goesOn x ops hmoved _ _ hsettle =>
    have hsettled := settle_spec hsettle
    rw [CountsOne, hsettled.stepCount, hsettled.trace]
    exact hmoved.countsOne
  | drops i ops _ _ hdrop => subst hdrop; exact .inl ⟨rfl, rfl⟩

theorem IdleStep.trace {s t : State} (h : IdleStep s t) : t.trace = s.trace := by cases h <;> rfl

theorem IdleStep.stepCount {s t : State} (h : IdleStep s t) : t.stepCount = s.stepCount ∨ t.stepCount = 0 := by
  cases h with
  | waits | reads | refuses => exact .inl rfl
  | accepts | refusesDelay => exact .inr rfl

/-- Settles O11: acceptance does nothing to a busy block, and what the host presents is not among what its step writes. -/
theorem busyBlockAcceptsNothing : Obligations.BusyBlockAcceptsNothing :=
  fun _ hbusy => ⟨fun _ hi => exec_busy hi hbusy, fun _ hstep => (busyStep_of_step hbusy hstep).kept.hostOps⟩

/-- Settles O12: nothing presented, or no answer to a Pull, is a case of the step that gives the state back. -/
theorem theBlockWaits : Obligations.TheBlockWaits := by
  intro s
  refine ⟨step_of_nothing, fun rest hbusy htodo hstream => ?_⟩
  have hpull : s.stream.pull = none := by rw [hstream, TokenStream.pull_unanswered]
  rw [step_busy_pull hbusy htodo, runPull]
  simp only [State.withTodo_stream, hpull, State.withTodo_todo, State.withTodo_withTodo, ← htodo]
  rfl

/-- Settles O13: an idle block's step emits nothing, and a busy one's performs at most one primitive. -/
theorem stepAppendsAtMostOneEvent : Obligations.StepAppendsAtMostOneEvent := by
  intro s t hstep
  cases hphase : s.phase with
  | idle => exact .inl (idleStep_of_step hphase hstep).trace
  | busy =>
    rcases (busyStep_of_step hphase hstep).countsOne with ⟨-, htrace⟩ | ⟨hcount, htrace | hevent⟩
    · exact .inl htrace
    · exact .inl htrace
    · exact .inr ⟨rfl, hcount, hevent⟩

/-- Settles O14: only acceptance restarts STEP, and a busy block's step performs at most one primitive. -/
theorem stepCountsPrimitives : Obligations.StepCountsPrimitives := by
  intro s t hstep
  cases hphase : s.phase with
  | idle => exact (idleStep_of_step hphase hstep).stepCount.imp_right fun h => .inr ⟨rfl, h⟩
  | busy =>
    rcases (busyStep_of_step hphase hstep).countsOne with ⟨hcount, -⟩ | ⟨hcount, -⟩
    · exact .inl hcount
    · exact .inr (.inl ⟨rfl, hcount⟩)

/-- Settles O16: of all steps only the two that take a request write the latches, and they write the descriptor's fields. -/
theorem latchesAreWrittenAtAcceptanceOnly : Obligations.LatchesAreWrittenAtAcceptanceOnly := by
  intro s t hstep
  cases hphase : s.phase with
  | idle =>
    cases idleStep_of_step hphase hstep with
    | waits | reads | refuses => exact .inl ⟨rfl, rfl, rfl, rfl, rfl⟩
    | accepts i stream rest _ hops => exact .inr ⟨rfl, _, stream, rest, hops, rfl, rfl, rfl, rfl, rfl⟩
    | refusesDelay i stream rest hops => exact .inr ⟨rfl, _, stream, rest, hops, rfl, rfl, rfl, rfl, rfl⟩
  | busy =>
    have hkept := (busyStep_of_step hphase hstep).kept
    exact .inl ⟨hkept.req, hkept.a, hkept.b, hkept.c, hkept.d⟩

/-- REFUSED stays as it is, or a refusal sets it and does nothing to TRACE and RESULT (R173). -/
theorem step_refused {s t : State} (hstep : step s = .next t) :
    t.refused = s.refused ∨
      (t.refused = true ∧ t.trace = s.trace ∧ t.result = s.result ∧ ∃ r, t.refusals = s.refusals ++ [r]) := by
  cases hphase : s.phase with
  | idle =>
    cases idleStep_of_step hphase hstep with
    | waits | reads | accepts => exact .inl rfl
    | refuses | refusesDelay => exact .inr ⟨rfl, rfl, rfl, _, rfl⟩
  | busy => exact .inl (busyStep_of_step hphase hstep).kept.refused

/-- Settles O17: REFUSED is written by refusals alone, which set it. -/
theorem refusedIsSticky : Obligations.RefusedIsSticky := by
  refine ⟨fun _ => rfl, fun s t hstep => ?_⟩
  rcases step_refused hstep with hsame | ⟨hset, hrest⟩
  · exact ⟨fun h => hsame.trans h, fun hfalse htrue => by simp [hsame, hfalse] at htrue⟩
  · exact ⟨fun _ => hset, fun _ _ => hrest⟩

/-- Settles O41: work that settles leaves the block BUSY or completes it with OK, so another end is the abort. -/
theorem errorClearsCtlInit : Obligations.ErrorClearsCtlInit := by
  intro s t hstep hbusy hidle hresult
  cases busyStep_of_step hbusy hstep with
  | aborts p e _ _ habort => subst habort; exact ⟨rfl, rfl, p, rfl⟩
  | goesOn x ops hmoved _ _ hsettle =>
    rcases (settle_spec hsettle).ends with ⟨hphase, -⟩ | ⟨-, hok, -⟩
    · rw [hphase, hmoved.phase, hbusy] at hidle
      cases hidle
    · exact absurd hok hresult
  | drops i ops _ _ hdrop =>
    rw [hdrop, State.withTodo_phase, hbusy] at hidle
    cases hidle

end Sys2Proof.Machine
end

section
/-! The invariant of the block (spec/10_state.md R20 to R36): it holds after construction, and from every state that meets
it the step answers a state that meets it. The invariant is taken apart into what speaks of the registers, TRACE and BUF
(`Body`) and what speaks of the work that is left (`WorkOk`), since the work changes hands inside a step. -/

namespace Sys2Proof.Machine

/-! ### The two parts of the invariant -/

/-- The invariant of the registers, BUF, TRACE and the lines. -/
structure Body (s : State) : Prop where
  cfg : s.cfg.Wf
  bufWf : Memory.wf s.buf
  bufRange : ∀ c ∈ s.buf, c.1 < 2 * s.cfg.chunk
  fill : s.fill ≤ s.cfg.chunk
  staged : ∀ j, j < 2 * s.fill → (Memory.read s.buf j).isSome
  trace : ∀ e ∈ s.trace, Safety.eventShaped s.cfg e
  cs : ¬ (s.cfg.variant = .discrete ∧ s.cfg.hasCs = true) → s.csLvl = .unknown
  dc : s.cfg.variant ≠ .discrete → s.dcLvl = .unknown
  refused : s.refused = true ↔ s.refusals ≠ []

/-- The invariant of the work ops, for a request of code req, where BUF holds fill words before it. -/
structure WorkOk (cfg : Config) (req : Byte) (fill : Nat) (ops : List MicroOp) : Prop where
  work : ∀ m ∈ ops, Safety.workShaped cfg m
  fits : Safety.workFits cfg.chunk fill ops
  mark : .markInit ∈ ops → reqOp req = 1#4

theorem body_of_inv {s : State} (h : Safety.Inv s) : Body s := { h with }

theorem workOk_of_inv {s : State} (h : Safety.Inv s) : WorkOk s.cfg s.req s.fill s.todo := { h with }

theorem Body.inv {s : State} (h : Body s) (hwork : WorkOk s.cfg s.req s.fill s.todo)
    (hphase : s.phase = .idle ↔ s.todo = []) : Safety.Inv s := { h, hwork with phase := hphase }

/-! ### What keeps the registers' part -/

theorem Body.clearFill {s : State} (h : Body s) : Body s.clearFill :=
  { h with
    fill := Nat.zero_le _
    staged := fun _ hj => absurd hj (Nat.not_lt_zero _) }

/-- A line that does not exist is not driven by a primitive the block may perform (R33, R34). -/
theorem Body.performed {s : State} (h : Body s) {p : Prim} {o : Answer} (hp : Safety.primShaped s.cfg p)
    (ho : p.fallible = true ∨ o = .ok) : Body (s.performed p o) := by
  refine { h with trace := fun e he => ?trace, cs := fun hcs => ?cs, dc := fun hdc => ?dc }
  case trace =>
    rcases List.mem_append.mp he with hold | hnew
    · exact h.trace e hold
    · rw [List.mem_singleton.mp hnew]
      simpa [Safety.eventShaped, hp] using ho
  case cs =>
    cases p with
    | pinCs l => exact absurd (by simpa [Safety.primShaped] using hp) hcs
    | _ => exact h.cs hcs
  case dc =>
    cases p with
    | pinDc l => exact absurd (by simpa [Safety.primShaped] using hp) hdc
    | _ => exact h.dc hdc

theorem Body.staged_word {s : State} (h : Body s) (hroom : s.fill < s.cfg.chunk) (c : Word) : Body (s.staged c) := by
  refine { h with
    bufWf := Memory.write_wf _ _ (Memory.write_wf _ _ h.bufWf)
    bufRange := fun cell hcell => ?range
    fill := hroom
    staged := fun j hj => ?staged }
  case range =>
    simp only [State.staged_cfg]
    rcases Memory.mem_write hcell with hlo | hrest
    · omega
    · rcases Memory.mem_write hrest with hhi | hold
      · omega
      · exact h.bufRange cell hold
  case staged =>
    rw [State.staged_fill] at hj
    rw [State.staged_buf]
    by_cases hlo : j = 2 * s.fill + 1
    · simp [hlo]
    · rw [Memory.read_write_other _ _ hlo]
      by_cases hhi : j = 2 * s.fill
      · simp [hhi]
      · rw [Memory.read_write_other _ _ hhi]
        exact h.staged j (by omega)

/-! ### What keeps the work's part -/

section
variable {cfg : Config} {req : Byte} {fill : Nat} {m : MicroOp} {r : List MicroOp}

/-- What is left behind an entry, where the fit of it is known. -/
theorem WorkOk.behind {fill' : Nat} (h : WorkOk cfg req fill (m :: r)) (hfits : Safety.workFits cfg.chunk fill' r) :
    WorkOk cfg req fill' r :=
  ⟨fun n hn => h.work n (List.mem_cons_of_mem m hn), hfits, fun hm => h.mark (List.mem_cons_of_mem m hm)⟩

/-- Primitives in front of the work do not touch BUF. -/
theorem WorkOk.prims (h : WorkOk cfg req fill r) {ps : List Prim} (hps : ∀ p ∈ ps, Safety.primShaped cfg p) :
    WorkOk cfg req fill (ps.map .prim ++ r) := by
  induction ps with
  | nil => exact h
  | cons p ps ih =>
    have hrest := ih fun q hq => hps q (List.mem_cons_of_mem p hq)
    refine ⟨fun n hn => ?_, hrest.fits, fun hm => hrest.mark (by simpa using hm)⟩
    rcases List.mem_cons.mp hn with rfl | hn
    · exact hps p List.mem_cons_self
    · exact hrest.work n hn

/-- A flush empties BUF before what is behind it. -/
theorem WorkOk.flush_cons (h : WorkOk cfg req 0 r) : WorkOk cfg req fill (.flush :: r) :=
  ⟨by simpa [Safety.workShaped] using h.work, h.fits, fun hm => h.mark (by simpa using hm)⟩

theorem WorkOk.clearFill_cons (h : WorkOk cfg req 0 r) : WorkOk cfg req fill (.clearFill :: r) :=
  ⟨by simpa [Safety.workShaped] using h.work, h.fits, fun hm => h.mark (by simpa using hm)⟩

end

/-- A drive of a line a frame drives, where the line exists (R33, R34, R140). -/
def LineDrive (cfg : Config) (p : Prim) : Prop :=
  cfg.variant = .discrete ∧ ((∃ c, p = .pinDc c) ∨ (cfg.hasCs = true ∧ ∃ l, p = .pinCs l))

theorem LineDrive.shaped {cfg : Config} {p : Prim} (h : LineDrive cfg p) : Safety.primShaped cfg p := by
  obtain ⟨hvariant, ⟨c, rfl⟩ | ⟨hcs, l, rfl⟩⟩ := h
  · simp [Safety.primShaped, hvariant]
  · simp [Safety.primShaped, hvariant, hcs]

theorem lineDrive_of_mem_csPrims {cfg : Config} {p : Prim} {l : Select} (hvariant : cfg.variant = .discrete)
    (h : p ∈ csPrims cfg l) : LineDrive cfg p := by
  unfold csPrims at h
  split at h
  · exact ⟨hvariant, .inr ⟨‹_›, l, List.mem_singleton.mp h⟩⟩
  · cases h

/-- A command frame is made of its two transactions and of drives of the lines that exist. -/
theorem mem_frameCmd {cfg : Config} {op : Byte} {params : List Byte} {p : Prim} (h : p ∈ frameCmd cfg op params) :
    p = .send .cmd [op] ∨ (p = .send .data params ∧ params ≠ []) ∨ LineDrive cfg p := by
  unfold frameCmd at h
  cases hvariant : cfg.variant with
  | unified =>
    by_cases hnil : params = []
    case pos => exact .inl (by simpa [hvariant, hnil] using h)
    case neg =>
      have hsends : p = .send .cmd [op] ∨ p = .send .data params := by simpa [hvariant, hnil] using h
      exact hsends.imp_right fun hdata => .inl ⟨hdata, hnil⟩
  | discrete =>
    have hdc : ∀ c, LineDrive cfg (.pinDc c) := fun c => ⟨hvariant, .inl ⟨c, rfl⟩⟩
    have hcs : ∀ l, p ∈ csPrims cfg l → LineDrive cfg p := fun l => lineDrive_of_mem_csPrims hvariant
    simp only [hvariant, List.mem_append, List.mem_cons, List.not_mem_nil, or_false] at h
    rcases h with ((h | rfl | rfl) | h) | h
    · exact .inr (.inr (hcs _ h))
    · exact .inr (.inr (hdc _))
    · exact .inl rfl
    · by_cases hnil : params = []
      · simp [hnil] at h
      · simp only [hnil, if_false, List.mem_cons, List.not_mem_nil, or_false] at h
        rcases h with rfl | rfl
        · exact .inr (.inr (hdc _))
        · exact .inr (.inl ⟨rfl, hnil⟩)
    · exact .inr (.inr (hcs _ h))

/-- A data frame is made of its transaction and of drives of the lines that exist. -/
theorem mem_frameData {cfg : Config} {bytes : List Byte} {p : Prim} (h : p ∈ frameData cfg bytes) :
    p = .send .data bytes ∨ LineDrive cfg p := by
  unfold frameData at h
  cases hvariant : cfg.variant with
  | unified => exact .inl (by simpa [hvariant] using h)
  | discrete =>
    simp only [hvariant, List.mem_append, List.mem_cons, List.not_mem_nil, or_false] at h
    rcases h with (h | rfl | rfl) | h
    · exact .inr (lineDrive_of_mem_csPrims hvariant h)
    · exact .inr ⟨hvariant, .inl ⟨_, rfl⟩⟩
    · exact .inl rfl
    · exact .inr (lineDrive_of_mem_csPrims hvariant h)

/-- The bytes of words that fit BUF are a data transaction of a shape the spec gives (R56). -/
theorem frameData_shaped {cfg : Config} {bytes : List Byte} {n : Nat} (hlen : bytes.length = 2 * n) (hpos : n ≠ 0)
    (hmax : n ≤ cfg.chunk) : ∀ p ∈ frameData cfg bytes, Safety.primShaped cfg p := by
  intro p hp
  rcases mem_frameData hp with rfl | hline
  · have hpair : bytes.length % 2 = 0 ∧ 2 ≤ bytes.length ∧ bytes.length ≤ 2 * cfg.chunk := by omega
    simp [Safety.primShaped, hpair]
  · exact hline.shaped

/-- A command's frame is its opcode's, with no parameter, one, or two words (R81). -/
theorem commandPrims_eq_frameCmd {i : Instr} (hi : i.port = .bus) (cfg : Config) :
    ∃ op ∈ cfg.opc.toList, ∃ params : List Byte, (params = [] ∨ params.length = 1 ∨ params.length = 4) ∧
      commandPrims cfg i = frameCmd cfg op params := by
  cases i with
  | init | hardReset | setOrientation | setPixel | setPixels => cases hi
  | madctl b => exact ⟨_, by simp [Opcodes.toList], [b], by simp, rfl⟩
  | colmod b => exact ⟨_, by simp [Opcodes.toList], [b], by simp, rfl⟩
  | caset sx ex => exact ⟨_, by simp [Opcodes.toList], be16 sx ++ be16 ex, by simp [be16], rfl⟩
  | raset sy ey => exact ⟨_, by simp [Opcodes.toList], be16 sy ++ be16 ey, by simp [be16], rfl⟩
  | _ => exact ⟨_, by simp [Opcodes.toList], [], by simp, rfl⟩

theorem commandPrims_shaped {i : Instr} (hi : i.port = .bus) (cfg : Config) :
    ∀ p ∈ commandPrims cfg i, Safety.primShaped cfg p := by
  obtain ⟨op, hop, params, hparams, heq⟩ := commandPrims_eq_frameCmd hi cfg
  intro p hp
  rw [heq] at hp
  rcases mem_frameCmd hp with rfl | ⟨rfl, hne⟩ | hline
  · simpa [Safety.primShaped] using hop
  · rcases hparams with hnil | hone | hfour
    · exact absurd hnil hne
    · simp [Safety.primShaped, hone]
    · simp [Safety.primShaped, hfour]
  · exact hline.shaped

/-! ### settle -/

/-- A busy block with work left to do, where the parts of the invariant hold. -/
theorem Body.inv_withTodo {ops : List MicroOp} {s : State} (h : Body s) (hwork : WorkOk s.cfg s.req s.fill ops)
    (hbusy : s.phase = .busy) (hne : ops ≠ []) : Safety.Inv (s.withTodo ops) :=
  Body.inv { h with } hwork (by simp [hbusy, hne])

/-- Work that fits settles, whatever the answers and the data were. -/
theorem settle_inv {ops : List MicroOp} {s : State} (h : Body s) (hwork : WorkOk s.cfg s.req s.fill ops)
    (hbusy : s.phase = .busy) : ∃ t, settle ops s = .next t ∧ Safety.Inv t := by
  induction ops generalizing s with
  | nil => exact ⟨_, rfl, Body.inv (s := s.complete) { h with } hwork (by simp)⟩
  | cons m r ih =>
    cases m with
    | prim p => exact ⟨_, rfl, h.inv_withTodo hwork hbusy (by simp)⟩
    | pull => exact ⟨_, rfl, h.inv_withTodo hwork hbusy (by simp)⟩
    | cmd i => exact ⟨_, rfl, h.inv_withTodo hwork hbusy (by simp)⟩
    | clearFill => exact ih h.clearFill (hwork.behind hwork.fits) hbusy
    | markInit =>
      have hlast : s.fill = 0 ∧ r = [] := by simpa [Safety.workFits] using hwork.fits
      exact ih (s := s.setCtlInit true) { h with } (hwork.behind (by simp [Safety.workFits, hlast])) hbusy
    | stagePixel =>
      have hroom : s.clearFill.fill < s.clearFill.cfg.chunk := h.cfg.2.2.1
      have hstaged := h.clearFill.staged_word hroom s.c
      simpa [settle, State.stageWord_of_lt hroom] using ih hstaged (hwork.behind hwork.fits) hbusy
    | flush =>
      have hbehind : WorkOk s.cfg s.req 0 r := hwork.behind hwork.fits
      by_cases hempty : s.fill = 0
      case pos => simpa [settle, hempty] using ih h (hempty ▸ hbehind) hbusy
      case neg =>
        obtain ⟨bytes, hbytes, hlen⟩ := Memory.readRange_of_read (2 * s.fill) 0 fun j _ hj => h.staged j (by omega)
        have hframe := (hbehind.clearFill_cons (fill := s.fill)).prims (frameData_shaped hlen hempty h.fill)
        refine ⟨s.withTodo ((frameData s.cfg bytes).map .prim ++ .clearFill :: r), ?_,
          h.inv_withTodo hframe hbusy (by simp)⟩
        simp [settle, hempty, State.stagedBytes, hbytes]

/-! ### A busy block's step -/

theorem runPrim_inv {p : Prim} {ops : List MicroOp} {s : State} (h : Body s) (hp : Safety.primShaped s.cfg p)
    (hwork : WorkOk s.cfg s.req s.fill ops) (hbusy : s.phase = .busy) :
    ∃ t, runPrim p (s.withTodo ops) = .next t ∧ Safety.Inv t := by
  by_cases hok : p.fallible = true → s.nextAnswer = .ok
  case pos =>
    rw [runPrim_withTodo_ok ops hok]
    exact settle_inv (h.performed hp (.inr rfl)) hwork hbusy
  case neg =>
    obtain ⟨hfallible, hnot⟩ := Classical.not_imp.mp hok
    have hfail : s.nextAnswer = .fail := by cases hans : s.nextAnswer <;> simp_all
    obtain ⟨e, he⟩ := Option.isSome_iff_exists.mp hfallible
    refine ⟨_, runPrim_withTodo_fail ops he hfail, ?_⟩
    have hbody : Body ((s.performed p .fail).abort e) :=
      { (h.performed hp (.inl hfallible)).clearFill with }
    exact hbody.inv ⟨by simp, by simp [Safety.workFits], by simp⟩ (by simp)

theorem runPull_inv {s : State} (h : Body s) (hroom : s.fill < s.cfg.chunk) (hbusy : s.phase = .busy) :
    ∃ t, runPull (s.withTodo []) = .next t ∧ Safety.Inv t := by
  have hpull : ∀ fill, fill < s.cfg.chunk → WorkOk s.cfg s.req fill [.pull] := fun fill hfill =>
    ⟨by simp [Safety.workShaped], by simp [Safety.workFits, hfill], by simp⟩
  have hchunk : 0 < s.cfg.chunk := h.cfg.2.2.1
  unfold runPull
  rw [State.withTodo_stream]
  cases s.stream.pull with
  | none => exact settle_inv (ops := [.pull]) (s := s.withTodo []) { h with } (hpull s.fill hroom) hbusy
  | some answer =>
    obtain ⟨e, st⟩ := answer
    have hbody : Body ((s.withTodo []).pulled st) := { h with }
    dsimp only
    cases tokenItem e with
    | endOfStream =>
      have hdone : WorkOk s.cfg s.req 0 [] := ⟨by simp, by simp [Safety.workFits], by simp⟩
      exact settle_inv hbody hdone.flush_cons hbusy
    | word c =>
      have hstaged := hbody.staged_word hroom c
      dsimp only
      rw [State.stageWord_of_lt (s := (s.withTodo []).pulled st) hroom]
      dsimp only
      split
      · exact settle_inv hstaged (hpull 0 hchunk).flush_cons hbusy
      · rename_i hnotFull
        have hmore : s.fill + 1 < s.cfg.chunk := lt_of_le_of_ne hroom hnotFull
        exact settle_inv (ops := [.pull]) hstaged (hpull _ hmore) hbusy

theorem step_inv_busy {s : State} (h : Safety.Inv s) (hbusy : s.phase = .busy) :
    ∃ t, step s = .next t ∧ Safety.Inv t := by
  have hbody := body_of_inv h
  have hwork := workOk_of_inv h
  have hwrite : step s = settle s.todo s → ∃ t, step s = .next t ∧ Safety.Inv t := fun heq =>
    heq ▸ settle_inv hbody hwork hbusy
  cases htodo : s.todo with
  | nil => simp [h.phase.mpr htodo] at hbusy
  | cons m rest =>
    rw [htodo] at hwork
    cases m with
    | prim p =>
      rw [step_busy_prim hbusy htodo]
      exact runPrim_inv hbody (hwork.work _ List.mem_cons_self) (hwork.behind hwork.fits) hbusy
    | pull =>
      obtain ⟨hroom, rfl⟩ : s.fill < s.cfg.chunk ∧ rest = [] := by simpa [Safety.workFits] using hwork.fits
      rw [step_busy_pull hbusy htodo]
      exact runPull_inv hbody hroom hbusy
    | cmd i =>
      have hi : i.port = .bus := by
        have hshape := hwork.work _ List.mem_cons_self
        simp only [Safety.workShaped, Bool.and_eq_true, beq_iff_eq] at hshape
        exact hshape.1
      obtain ⟨p, ps, hframe⟩ := List.exists_cons_of_ne_nil (commandPrims_ne_nil hi s.cfg)
      have hshaped := commandPrims_shaped hi s.cfg
      rw [hframe] at hshaped
      have hstep : step s = runPrim p (s.withTodo (ps.map .prim ++ rest)) := by
        rw [step_busy_cmd hbusy htodo, exec_bus hi, State.withTodo_cfg, hframe]
        rfl
      rw [hstep]
      exact runPrim_inv hbody (hshaped p List.mem_cons_self)
        ((hwork.behind hwork.fits).prims fun q hq => hshaped q (List.mem_cons_of_mem p hq)) hbusy
    | clearFill => exact hwrite (step_busy_write hbusy htodo (by simp))
    | stagePixel => exact hwrite (step_busy_write hbusy htodo (by simp))
    | flush => exact hwrite (step_busy_write hbusy htodo (by simp))
    | markInit => exact hwrite (step_busy_write hbusy htodo (by simp))

/-! ### An idle block's step -/

/-- What a request sets out to do fits an empty BUF; only INIT sets CTL_INIT (R104). -/
theorem requestWork_ok {cfg : Config} (hchunk : 1 ≤ cfg.chunk) {i : Instr} (hi : i.port = .request) :
    WorkOk cfg (descReq (encodeDesc i)) 0 (requestWork i) := by
  cases i with
  | init a b c d => exact ⟨List.all_eq_true.mp rfl, rfl, fun _ => by simp⟩
  | hardReset a b c d => exact ⟨List.all_eq_true.mp rfl, rfl, by simp [requestWork, hardResetSeq]⟩
  | setOrientation ori a b c d =>
    refine ⟨?_, rfl, by simp [requestWork]⟩
    cases ori <;> exact List.all_eq_true.mp rfl
  | setPixel x y color d => exact ⟨List.all_eq_true.mp rfl, rfl, by simp [requestWork, window]⟩
  | setPixels sx sy ex ey =>
    refine ⟨List.all_eq_true.mp rfl, ?_, by simp [requestWork, window]⟩
    simpa [requestWork, window, Safety.workFits] using Nat.zero_lt_of_lt hchunk
  | _ => cases hi

theorem requestWork_ne_nil {i : Instr} (hi : i.port = .request) : requestWork i ≠ [] := by
  cases i <;> first | exact List.cons_ne_nil _ _ | cases hi

theorem IdleStep.inv {s t : State} (h : Safety.Inv s) (hidle : s.phase = .idle) (hstep : IdleStep s t) :
    Safety.Inv t := by
  have htodo := h.phase.mp hidle
  have hbody := body_of_inv h
  have hrefuse : ∀ (u : State) (r : RefuseReason), (u.refuse r).refused = true ↔ (u.refuse r).refusals ≠ [] :=
    fun u r => by simp
  cases hstep with
  | waits hops => exact h
  | reads rest r hops hresult => exact { h with }
  | refuses op rest r hops => exact { h with refused := hrefuse _ r }
  | accepts i stream rest hi hops =>
    have hlatched : Body ((s.withHost rest stream).accepted i) := { hbody.clearFill with }
    exact hlatched.inv (requestWork_ok h.cfg.2.2.1 hi) (by
      simp [State.accepted, State.latchDesc, requestWork_ne_nil hi])
  | refusesDelay i stream rest hops =>
    have hlatched : Body ((s.withHost rest stream).refusedDelay i) := { hbody.clearFill with
      refused := hrefuse _ .noDelayProvider }
    have hsame : ((s.withHost rest stream).refusedDelay i).todo = [] := htodo
    refine hlatched.inv ?_ (iff_of_true rfl hsame)
    rw [hsame]
    exact ⟨by simp, rfl, by simp⟩

/-! ### Every step, every run -/

/-- From every state of the invariant the step answers a state of the invariant. -/
theorem step_inv {s : State} (h : Safety.Inv s) : ∃ t, step s = .next t ∧ Safety.Inv t := by
  cases hphase : s.phase with
  | idle =>
    obtain ⟨t, hstep, hidle⟩ := step_idle hphase
    exact ⟨t, hstep, hidle.inv h hphase⟩
  | busy => exact step_inv_busy h hphase

theorem inv_of_step {s t : State} (h : Safety.Inv s) (hstep : step s = .next t) : Safety.Inv t := by
  obtain ⟨u, hu, hinv⟩ := step_inv h
  cases hu.symm.trans hstep
  exact hinv

/-- Settles O43: the state a step answers is the one known to meet the invariant. -/
theorem stepKeepsInv : Obligations.StepKeepsInv := fun _ _ => inv_of_step

/-- Settles O44: work that fits BUF meets neither fault, and no other operation stops. -/
theorem stepNeverStops : Obligations.StepNeverStops := fun _ h =>
  let ⟨t, hstep, _⟩ := step_inv h
  ⟨t, hstep⟩

/-- What the host presents and the environment answers is free after construction. -/
theorem inv_construct {cfg : Config} (hcfg : cfg.Wf) (ops : List HostOp) (answers : List Answer) :
    Safety.Inv { State.construct cfg with hostOps := ops, answers := answers } where
  cfg := hcfg
  bufWf := .nil
  bufRange := fun _ hc => absurd hc List.not_mem_nil
  fill := Nat.zero_le _
  staged := fun _ hj => absurd hj (Nat.not_lt_zero _)
  phase := iff_of_true rfl rfl
  work := fun _ hm => absurd hm List.not_mem_nil
  fits := rfl
  mark := fun hm => absurd hm List.not_mem_nil
  trace := fun _ he => absurd he List.not_mem_nil
  cs := fun _ => rfl
  dc := fun _ => rfl
  refused := iff_of_false Bool.false_ne_true (not_not.mpr rfl)

/-- Settles O42: nothing is staged, to do, sent, driven or refused. -/
theorem invAfterConstruction : Obligations.InvAfterConstruction := fun _ hcfg => inv_construct hcfg [] []

/-- Settles O19: each field is read off construction. -/
theorem constructionValues : Obligations.ConstructionValues :=
  fun _ => ⟨rfl, rfl, rfl, rfl, rfl, rfl, rfl, rfl, rfl, rfl, rfl, fun _ => rfl⟩

theorem inv_of_run {n : Nat} {s t : State} (h : Safety.Inv s) (hrun : run n s = .next t) :
    Safety.Inv t ∧ t.cfg = s.cfg := by
  induction n generalizing s with
  | zero => cases hrun; exact ⟨h, rfl⟩
  | succ n ih =>
    obtain ⟨u, hstep, hrest⟩ := run_succ_next hrun
    obtain ⟨hinv, hcfg⟩ := ih (inv_of_step h hstep) hrest
    exact ⟨hinv, hcfg.trans (step_cfg hstep)⟩

/-- Settles O45: every state of a run meets the invariant, whose events are of the shapes of R55, R56 and R143. -/
theorem transactionsAreShaped : Obligations.TransactionsAreShaped := by
  intro cfg ops answers n u hcfg hrun c bytes o hmem
  obtain ⟨hinv, hsame⟩ := inv_of_run (inv_construct hcfg ops answers) hrun
  have hcfg' : u.cfg = cfg := hsame
  have hevent := hinv.trace _ hmem
  have hshape : Safety.primShaped cfg (.send c bytes) = true := by
    rw [hcfg', Safety.eventShaped, Bool.and_eq_true] at hevent
    exact hevent.1
  refine ⟨?command, ?data⟩
  case command =>
    rintro rfl
    obtain ⟨op, hop, hbytes⟩ : ∃ op ∈ cfg.opc.toList, bytes = [op] := by simpa [Safety.primShaped] using hshape
    exact ⟨by simp [hbytes], op, hop, hbytes⟩
  case data =>
    rintro rfl
    simp only [Safety.primShaped, Bool.or_eq_true, Bool.and_eq_true, beq_iff_eq, decide_eq_true_eq] at hshape
    rcases hshape with (hone | hfour) | hpairs
    · exact .inl hone
    · exact .inr (.inl hfour)
    · exact .inr (.inr ⟨bytes.length / 2, by omega, by omega, by omega⟩)

end Sys2Proof.Machine
end

section
/-! What the invariant says of single steps: CTL_INIT rises with INIT's completion only (spec/10_state.md R35), a Pull
stages its word (spec/42_window_sequencer.md R125), and without an END nothing completes (93_implementation_defined.md
I17). -/

namespace Sys2Proof.Machine

/-! ### CTL_INIT -/

/-- INIT's mark has nothing behind it (R104). -/
def MarkLast (ops : List MicroOp) : Prop := ∀ r, .markInit :: r <:+ ops → r = []

theorem MarkLast.tail {m : MicroOp} {r : List MicroOp} (h : MarkLast (m :: r)) : MarkLast r :=
  fun r' hr' => h r' (hr'.trans (List.suffix_cons m r))

theorem markLast_of_fits {chunk fill : Nat} {ops : List MicroOp} (h : Safety.workFits chunk fill ops) :
    MarkLast ops := by
  induction ops generalizing fill with
  | nil => intro r hr; simp at hr
  | cons m rest ih =>
    intro r hr
    rcases List.suffix_cons_iff.mp hr with heq | hrest
    · obtain ⟨rfl, rfl⟩ := List.cons.inj heq
      simp only [Safety.workFits, Bool.and_eq_true, beq_iff_eq] at h
      exact h.2
    · cases m with
      | prim p => exact ih (fill := fill) h r hrest
      | cmd i => exact ih (fill := fill) h r hrest
      | clearFill => exact ih (fill := 0) h r hrest
      | stagePixel => exact ih (fill := 1) h r hrest
      | flush => exact ih (fill := 0) h r hrest
      | pull =>
        simp only [Safety.workFits, Bool.and_eq_true, beq_iff_eq] at h
        simp [h.2] at hrest
      | markInit =>
        simp only [Safety.workFits, Bool.and_eq_true, beq_iff_eq] at h
        simp [h.2] at hrest

/-- Work that raises CTL_INIT has come to its last entry, and completes. -/
theorem settle_raises {ops : List MicroOp} {s t : State} (hlast : MarkLast ops) (h : settle ops s = .next t)
    (hclear : s.ctlInit = false) (hset : t.ctlInit = true) : t.phase = .idle ∧ t.result = some .ok := by
  induction ops generalizing s with
  | nil => cases h; exact ⟨rfl, rfl⟩
  | cons m r ih =>
    cases m with
    | prim | pull | cmd => cases h; simp [hclear] at hset
    | clearFill => exact ih hlast.tail h hclear
    | markInit =>
      have hdone : r = [] := hlast r List.suffix_rfl
      subst hdone
      cases h
      exact ⟨rfl, rfl⟩
    | stagePixel =>
      simp only [settle] at h
      split at h
      · obtain ⟨-, rfl⟩ := State.stageWord_some ‹_›
        exact ih hlast.tail h hclear
      · cases h
    | flush =>
      simp only [settle] at h
      split at h
      · exact ih hlast.tail h hclear
      · split at h
        · cases h; simp [hclear] at hset
        · cases h

theorem IdleStep.ctlInit {s t : State} (h : IdleStep s t) (hset : t.ctlInit = true) : s.ctlInit = true := by
  cases h with
  | accepts i stream rest hi hops =>
    have hboth : (!needsDelay i && s.ctlInit) = true := hset
    simp only [Bool.and_eq_true] at hboth
    exact hboth.2
  | waits | reads | refuses | refusesDelay => exact hset

/-- Settles O40: only INIT's mark raises CTL_INIT; it is INIT's last entry, so the step completes the request. -/
theorem ctlInitRisesWithInitOnly : Obligations.CtlInitRisesWithInitOnly := by
  intro s t hinv hstep hclear hset
  cases hphase : s.phase with
  | idle => simp [(idleStep_of_step hphase hstep).ctlInit hset] at hclear
  | busy =>
    cases busyStep_of_step hphase hstep with
    | aborts p e _ _ habort => subst habort; cases hset
    | drops i ops _ _ hdrop => subst hdrop; simp [hclear] at hset
    | goesOn x ops hmoved hfrom _ hsettle =>
      have hclear' : x.ctlInit = false := hmoved.ctlInit.trans hclear
      have hlast : MarkLast ops := fun r hr => markLast_of_fits hinv.fits r (hfrom.suffix (by simp) (by simp) hr)
      have hmark : .markInit ∈ ops := by simpa [hclear'] using (settle_spec hsettle).ctlInit hset
      exact ⟨rfl, hinv.mark (hfrom.mem (by simp) (by simp) hmark), settle_raises hlast hsettle hclear' hset⟩

/-! ### One Pull -/

/-- Where BUF has just been filled, its bytes start off as one data frame. -/
theorem settle_flush_full {s : State} (h : Body s) (hsome : s.fill ≠ 0) (r : List MicroOp) :
    ∃ bytes, bytes.length = 2 * s.fill ∧ (∀ j, j < 2 * s.fill → bytes[j]? = Memory.read s.buf j) ∧
      settle (.flush :: r) s = .next (s.withTodo ((frameData s.cfg bytes).map .prim ++ .clearFill :: r)) := by
  obtain ⟨bytes, hbytes, -⟩ := Memory.readRange_of_read (2 * s.fill) 0 fun j _ hj => h.staged j (by omega)
  obtain ⟨hlen, hread⟩ := (Memory.readRange_iff _ _ _ _).mp hbytes
  refine ⟨bytes, hlen, fun j hj => by simpa using hread j hj, ?_⟩
  simp [settle, hsome, State.stagedBytes, hbytes]

/-- The state of a pulling block after a WORD, but for the work that is left. -/
theorem pulledWord_fields (s : State) (st : TokenStream) (c : Word) (ops : List MicroOp) :
    let t := (s.tookWord st c).withTodo ops
    t.fill = s.fill + 1 ∧ t.stream = st ∧ t.stepCount = s.stepCount + 1 ∧ t.trace = s.trace ∧ t.phase = s.phase ∧
      t.ctlInit = s.ctlInit ∧ t.result = s.result ∧
      Memory.read t.buf (2 * s.fill) = some (hiByte c) ∧ Memory.read t.buf (2 * s.fill + 1) = some (loByte c) ∧
      ∀ j, j ≠ 2 * s.fill → j ≠ 2 * s.fill + 1 → Memory.read t.buf j = Memory.read s.buf j := by
  refine ⟨rfl, rfl, rfl, rfl, rfl, rfl, rfl, ?hi, ?lo, fun j hhi hlo => ?other⟩
  all_goals simp only [State.tookWord, State.withTodo_buf, State.staged_buf, State.pulled_buf, State.pulled_fill,
    State.withTodo_fill]
  case hi => rw [Memory.read_write_other _ _ (by omega), Memory.read_write_same]
  case lo => rw [Memory.read_write_same]
  case other => rw [Memory.read_write_other _ _ hlo, Memory.read_write_other _ _ hhi]

/-- Settles O39: the word is staged at the end of what is staged; the flush that may follow has not yet sent a byte. -/
theorem pullStagesAWord : Obligations.PullStagesAWord := by
  intro s c rest hinv hbusy htodo hpull
  have hroom : s.fill < s.cfg.chunk := by simpa [htodo, Safety.workFits] using hinv.fits
  have hstep := step_pull_word hbusy htodo hroom hpull
  by_cases hfull : s.fill + 1 = s.cfg.chunk
  case neg =>
    rw [if_neg hfull] at hstep
    obtain ⟨hfill, hstream, hcount, htrace, hphase, hctl, hresult, hhi, hlo, hother⟩ := pulledWord_fields s rest c [.pull]
    exact ⟨_, hstep, hfill, hstream, hcount, htrace, hphase.trans hbusy, hctl, hresult, hhi, hlo, hother, fun _ => rfl,
      fun h => absurd h hfull⟩
  case pos =>
    have hbody : Body (s.tookWord rest c) :=
      Body.staged_word (s := (s.withTodo []).pulled rest) { body_of_inv hinv with } hroom c
    obtain ⟨bytes, hlen, hbytes, hflush⟩ := settle_flush_full hbody (Nat.succ_ne_zero _) [.pull]
    rw [if_pos hfull] at hstep
    have htwice : 2 * (s.tookWord rest c).fill = 2 * s.cfg.chunk := congrArg (2 * ·) hfull
    rw [htwice] at hlen hbytes
    obtain ⟨hfill, hstream, hcount, htrace, hphase, hctl, hresult, hhi, hlo, hother⟩ :=
      pulledWord_fields s rest c ((frameData s.cfg bytes).map .prim ++ [.clearFill, .pull])
    exact ⟨_, hstep.trans hflush, hfill, hstream, hcount, htrace, hphase.trans hbusy, hctl, hresult, hhi, hlo, hother,
      fun h => absurd hfull (by omega), fun _ => ⟨bytes, hlen, hbytes, rfl⟩⟩

/-! ### No END, no completion -/

/-- A request that goes on with no END in sight: what a step without completion keeps (R125, I17). -/
structure GoesOn (s t : State) : Prop where
  phase : t.phase = .busy
  noEnd : ∀ x ∈ t.stream.tokens, tokenItem x ≠ .endOfStream
  after : t.stream.after = .unanswered ↔ s.stream.after = .unanswered
  result : t.result = s.result
  responses : t.responses = s.responses
  trace : t.trace = s.trace ∨ ∃ p, t.trace = s.trace ++ [⟨p, .ok⟩]

/-- Work that ends in a Pull settles before the Pull at the latest. -/
theorem settle_getLast {ops : List MicroOp} {s t : State} (hlast : ops.getLast? = some .pull)
    (h : settle ops s = .next t) : t.todo.getLast? = some .pull := by
  induction ops generalizing s with
  | nil => cases hlast
  | cons m r ih =>
    have hrest : m ≠ .pull → r.getLast? = some .pull := by
      intro hm
      cases r with
      | nil => exact absurd (by simpa using hlast) hm
      | cons n r => simpa using hlast
    cases m with
    | prim | pull | cmd => cases h; exact hlast
    | clearFill => exact ih (hrest (by simp)) h
    | markInit => exact ih (hrest (by simp)) h
    | stagePixel =>
      simp only [settle] at h
      split at h
      · exact ih (hrest (by simp)) h
      · cases h
    | flush =>
      simp only [settle] at h
      split at h
      · exact ih (hrest (by simp)) h
      · split at h
        · cases h
          simp [List.getLast?_append, List.getLast?_cons, hrest (by simp)]
        · cases h

theorem GoesOn.settle {ops : List MicroOp} {s x t : State} (h : GoesOn s x) (hlast : ops.getLast? = some .pull)
    (hsettle : settle ops x = .next t) : GoesOn s t ∧ t.todo.getLast? = some .pull := by
  have hsettled := settle_spec hsettle
  have htodo := settle_getLast hlast hsettle
  rcases hsettled.ends with ⟨hphase, hresult, hresponses, -⟩ | ⟨-, -, -, hnil⟩
  · refine ⟨⟨hphase.trans h.phase, ?_, ?_, hresult.trans h.result, hresponses.trans h.responses, ?_⟩, htodo⟩
    · rw [hsettled.stream]; exact h.noEnd
    · rw [hsettled.stream]; exact h.after
    · rw [hsettled.trace]; exact h.trace
  · simp [hnil] at htodo

/-- A stream that lists no END answers a Pull with a WORD, and lists none after it. -/
theorem pull_of_noEnd {st st' : TokenStream} {e : Token} (hnone : ∀ x ∈ st.tokens, tokenItem x ≠ .endOfStream)
    (hpull : st.pull = some (e, st')) :
    tokenItem e ≠ .endOfStream ∧ ∀ x ∈ st'.tokens, tokenItem x ≠ .endOfStream := by
  rcases st with ⟨_ | ⟨t, ts⟩, _ | n⟩
  · simp at hpull
  · rw [TokenStream.pull_endless] at hpull
    cases hpull
    simp
  all_goals
    rw [TokenStream.pull_listed] at hpull
    cases hpull
    exact ⟨hnone _ List.mem_cons_self, fun x hx => hnone x (List.mem_cons_of_mem _ hx)⟩

/-- One primitive answered OK, or one Pull of a stream that lists no END, keeps the request going. -/
theorem Moved.goesOn {s x : State} (h : Moved s x) (hbusy : s.phase = .busy)
    (hnone : ∀ t ∈ s.stream.tokens, tokenItem t ≠ .endOfStream) : GoesOn s x := by
  cases h with
  | stays => exact ⟨hbusy, hnone, .rfl, rfl, rfl, .inl rfl⟩
  | performs p hok => exact ⟨hbusy, hnone, .rfl, rfl, rfl, .inr ⟨p, rfl⟩⟩
  | pullsEnd e st hpull hend => exact absurd hend (pull_of_noEnd hnone hpull).1
  | pullsWord e c st hpull hword =>
    exact ⟨hbusy, (pull_of_noEnd hnone hpull).2, TokenStream.pull_after hpull, rfl, rfl, .inl rfl⟩

/-- Settles O51: the step neither aborts nor pulls an END, so the request goes on to its Pull. -/
theorem withoutEndNoCompletion : Obligations.WithoutEndNoCompletion := by
  intro s t hinv hbusy hlast hnone hok hstep
  cases busyStep_of_step hbusy hstep with
  | aborts p e _ hfail _ => simp [hok] at hfail
  | drops i ops hi htodo _ =>
    have hshape := hinv.work (.cmd i) (by simp [htodo])
    simp [Safety.workShaped, hi] at hshape
  | goesOn x ops hmoved _ hpull hsettle =>
    have hops : ops.getLast? = some .pull := by
      rcases hpull with hkeeps | ⟨e, st, hpull, hend⟩
      · exact hkeeps hlast
      · exact absurd hend (pull_of_noEnd hnone hpull).1
    obtain ⟨⟨hphase, hnoEnd, hafter, hresult, hresponses, htrace⟩, htodo⟩ :=
      (hmoved.goesOn hbusy hnone).settle hops hsettle
    exact ⟨hphase, htodo, hnoEnd, hafter, hresult, hresponses, htrace⟩

/-! ### A command's frame -/

theorem Body.performedAll {ps : List Prim} {s : State} (h : Body s) (hps : ∀ p ∈ ps, Safety.primShaped s.cfg p) :
    Body (s.performedAll ps) := by
  induction ps generalizing s with
  | nil => exact h
  | cons p ps ih =>
    exact ih (h.performed (hps p List.mem_cons_self) (.inr rfl)) fun q hq => hps q (List.mem_cons_of_mem p hq)

/-- Settles O34: the frame runs to its last primitive, and the work behind it, which fits, settles. -/
theorem commandsRunTheirFrames : Obligations.CommandsRunTheirFrames := by
  intro s i op params b sx ex sy ey rest hinv hbusy htodo hcommand ps hans
  obtain ⟨hi, hframe⟩ : i.port = .bus ∧ commandPrims s.cfg i = ps := by
    simp only [List.mem_cons, List.not_mem_nil, or_false, Prod.mk.injEq] at hcommand
    rcases hcommand with h | h | h | h | h | h | h | h | h | h | h
    all_goals
      obtain ⟨rfl, rfl, rfl⟩ := h
      exact ⟨rfl, rfl⟩
  have hprims : workPrims s.cfg [.cmd i] = ps := by simp [workPrims, hframe]
  have hshaped : ∀ p ∈ ps, Safety.primShaped s.cfg p := hframe ▸ commandPrims_shaped hi s.cfg
  have hwork : WorkOk s.cfg s.req s.fill rest := by
    have hall := workOk_of_inv hinv
    rw [htodo] at hall
    exact hall.behind hall.fits
  have hrun := run_entry hbusy htodo (by simp [MicroOp.loud, hi]) (hprims.symm ▸ hans)
  rw [hprims] at hrun
  obtain ⟨u, hsettle, -⟩ := settle_inv (ops := rest) ((body_of_inv hinv).performedAll hshaped)
    (by simpa using hwork) (by simpa using hbusy)
  obtain ⟨n, hn⟩ : ∃ n, ps.length = n + 1 := Nat.exists_eq_succ_of_ne_zero (by simp [ps, frameCmd_ne_nil])
  rw [hsettle, hn] at hrun
  obtain ⟨t, hstep, hrest⟩ := run_succ_next hrun
  have hsettled := settle_spec hsettle
  refine ⟨t, u, (step_busy_cmd hbusy htodo).symm.trans hstep, by simpa [hn] using hrest, ?_, ?_, ?_, ?_, ?_, ?_, ?_, ?_,
    ?_, ?_, ?_, ?_, ?_⟩
  · simp [hsettled.trace]
  · simp [hsettled.stepCount]
  · rw [hsettled.csLvl, performedAll_csLvl, frameCmd_cs]
  · rw [hsettled.dcLvl, performedAll_dcLvl, frameCmd_dc]
  · rw [hsettled.rstLvl, performedAll_rstLvl, frameCmd_rst]
  · simp [hsettled.cfg]
  · simp [hsettled.stream]
  · simp [hsettled.refused]
  · simp [hsettled.req]
  · simp [hsettled.a]
  · simp [hsettled.b]
  · simp [hsettled.c]
  · simp [hsettled.d]

end Sys2Proof.Machine
end

section
/-! The eleven controller commands (spec/43_framer.md R140, R141): the frames on the three busses, what a command's first
primitive leaves unchanged, and what happens where it fails. -/

namespace Sys2Proof.Machine

/-- Settles O33: the three busses are the three ways the frames' conditions on the configuration can go. -/
theorem framesOfTheThreeBusses : Obligations.FramesOfTheThreeBusses := by
  intro cfg op p ps hcs
  simp [frameCmd, frameData, csPrims, hcs]

/-! ### The frame condition -/

/-- A frame drives no reset line (R140). -/
theorem rstAfter_commandPrims {i : Instr} (hi : i.port = .bus) {cfg : Config} {p : Prim} (hp : p ∈ commandPrims cfg i)
    (o : Answer) (l : Line PinLevel) : p.rstAfter o l = l := by
  obtain ⟨op, -, params, -, heq⟩ := commandPrims_eq_frameCmd hi cfg
  rw [heq] at hp
  rcases mem_frameCmd hp with rfl | ⟨rfl, -⟩ | ⟨-, ⟨c, rfl⟩ | ⟨-, l', rfl⟩⟩ <;> rfl

/-- Under UNIFIED a frame drives no line at all (R140). -/
theorem linesAfter_commandPrims {i : Instr} (hi : i.port = .bus) {cfg : Config} (hvariant : cfg.variant = .unified)
    {p : Prim} (hp : p ∈ commandPrims cfg i) (o : Answer) (cs : Line Select) (dc : Line Ctx) :
    p.csAfter o cs = cs ∧ p.dcAfter o dc = dc := by
  obtain ⟨op, -, params, -, heq⟩ := commandPrims_eq_frameCmd hi cfg
  rw [heq] at hp
  rcases mem_frameCmd hp with rfl | ⟨rfl, -⟩ | ⟨hdiscrete, -⟩
  · exact ⟨rfl, rfl⟩
  · exact ⟨rfl, rfl⟩
  · rw [hvariant] at hdiscrete
    cases hdiscrete

/-- All that executing a command can do: its frame's first primitive, and then the work behind it settles or the request
is aborted. -/
theorem exec_command_cases {i : Instr} (hi : i.port = .bus) {s t : State} (h : exec i s = .next t) :
    ∃ p ∈ commandPrims s.cfg i,
      (∃ rest : List Prim, Settled (rest.map .prim ++ s.todo) (s.performed p .ok) t) ∨
        ∃ e, t = (s.performed p .fail).abort e := by
  rw [exec_bus hi] at h
  obtain ⟨p, rest, heq, ⟨hsettled, -⟩ | ⟨e, -, -, habort⟩⟩ := runFrame_cases (commandPrims_ne_nil hi s.cfg) h
  · exact ⟨p, by simp [heq], .inl ⟨rest, hsettled⟩⟩
  · exact ⟨p, by simp [heq], .inr ⟨e, habort⟩⟩

/-- A register write stands behind a frame only if it stands in the work after it. -/
theorem not_mem_prims_append {m : MicroOp} (hm : ∀ p, m ≠ .prim p) {rest : List Prim} {todo : List MicroOp}
    (h : m ∉ todo) : m ∉ rest.map .prim ++ todo := by
  simpa [h] using fun p _ => (hm p).symm

/-- Settles O36: the first primitive changes STEP, TRACE and a line; what settles behind it is bounded by the writes that
stand in the work. -/
theorem commandFrame : Obligations.CommandFrame := by
  intro s t i hi hexec
  obtain ⟨p, hp, ⟨rest, h⟩ | ⟨e, rfl⟩⟩ := exec_command_cases hi hexec
  case inr =>
    have hlines := fun hu => linesAfter_commandPrims hi hu hp .fail s.csLvl s.dcLvl
    exact ⟨rfl, rfl, rfl, rfl, rfl, rfl, rfl, rstAfter_commandPrims hi hp .fail s.rstLvl, rfl, rfl, rfl, rfl, ⟨_, rfl⟩,
      fun _ hbusy => by simp at hbusy, hlines, fun _ _ => rfl⟩
  case inl =>
    have hrst : t.rstLvl = s.rstLvl := h.rstLvl.trans (rstAfter_commandPrims hi hp .ok s.rstLvl)
    refine ⟨h.stepCount, h.cfg, h.req, h.a, h.b, h.c, h.d, hrst, h.refused, h.refusals, h.hostOps, h.stream,
      ⟨_, h.trace⟩, fun _ hbusy => ?busy, fun hu => ?lines, fun j hj => ?buf⟩
    case lines =>
      obtain ⟨hcs, hdc⟩ := linesAfter_commandPrims hi hu hp .ok s.csLvl s.dcLvl
      exact ⟨h.csLvl.trans hcs, h.dcLvl.trans hdc⟩
    case buf => exact h.buf j (hj.imp_left (not_mem_prims_append (by simp)))
    case busy =>
      rcases h.ends with ⟨-, hresult, hresponses, -⟩ | ⟨hidle, -⟩
      · refine ⟨hresult, hresponses, fun hmark => ?_, fun hclear hstage => ?_⟩
        · have hraise : t.ctlInit = true → s.ctlInit = true := fun hset =>
            (h.ctlInit hset).resolve_left (not_mem_prims_append (by simp) hmark)
          exact Bool.eq_iff_iff.mpr ⟨hraise, h.ctlInit_keep⟩
        · exact h.fill (not_mem_prims_append (by simp) hclear) (not_mem_prims_append (by simp) hstage)
      · simp [hidle] at hbusy

/-! ### The first primitive fails -/

/-- A frame begins with the chip-select where there is one, else with the context line where there is one (R140). -/
def framePrim (cfg : Config) (op : Byte) : Prim :=
  match cfg.variant with
  | .unified => .send .cmd [op]
  | .discrete => if cfg.hasCs then .pinCs .sel else .pinDc .cmd

theorem frameCmd_eq_cons (cfg : Config) (op : Byte) (params : List Byte) :
    ∃ ps, frameCmd cfg op params = framePrim cfg op :: ps := by
  unfold frameCmd framePrim csPrims
  cases cfg.variant with
  | unified => exact ⟨_, rfl⟩
  | discrete => cases cfg.hasCs <;> exact ⟨_, rfl⟩

/-- Settles O35: the frame's first primitive is one of three, and the abort's state is known field by field. -/
theorem commandAbortsAtItsFirstPrimitive : Obligations.CommandAbortsAtItsFirstPrimitive := by
  intro s i hi hfail
  obtain ⟨op, -, params, -, hcommand⟩ := commandPrims_eq_frameCmd hi s.cfg
  obtain ⟨ps, hps⟩ := frameCmd_eq_cons s.cfg op params
  have hframe := hcommand.trans hps
  have hexec : ∀ e, (framePrim s.cfg op).error = some e →
      exec i s = .next ((s.performed (framePrim s.cfg op) .fail).abort e) := fun e he => by
    rw [exec_bus hi, hframe]
    exact runPrim_withTodo_fail _ he hfail
  cases hvariant : s.cfg.variant with
  | unified =>
    have hprim : framePrim s.cfg op = .send .cmd [op] := by simp [framePrim, hvariant]
    rw [hprim] at hframe hexec
    exact ⟨_, _, ps, hframe, hexec _ rfl, rfl, rfl, rfl, rfl, rfl, rfl, by simp [Prim.csAfter], by simp [Prim.dcAfter],
      rfl, rfl, rfl, rfl, rfl, rfl, rfl, rfl, fun _ => rfl⟩
  | discrete =>
    cases hcs : s.cfg.hasCs with
    | true =>
      have hprim : framePrim s.cfg op = .pinCs .sel := by simp [framePrim, hvariant, hcs]
      rw [hprim] at hframe hexec
      exact ⟨_, _, ps, hframe, hexec _ rfl, rfl, rfl, rfl, rfl, rfl, rfl, by simp [Prim.csAfter, Line.after],
        by simp [Prim.dcAfter], rfl, rfl, rfl, rfl, rfl, rfl, rfl, rfl, fun _ => rfl⟩
    | false =>
      have hprim : framePrim s.cfg op = .pinDc .cmd := by simp [framePrim, hvariant, hcs]
      rw [hprim] at hframe hexec
      exact ⟨_, _, ps, hframe, hexec _ rfl, rfl, rfl, rfl, rfl, rfl, rfl, by simp [Prim.csAfter],
        by simp [Prim.dcAfter, Line.after], rfl, rfl, rfl, rfl, rfl, rfl, rfl, rfl, fun _ => rfl⟩

end Sys2Proof.Machine
end

section
/-! Requests followed to their end (spec/41_init_fsm.md R103 to R106, spec/42_window_sequencer.md R120, R128): those whose
work is primitives and commands alone, and SET_PIXEL, which flushes its one colour. -/

namespace Sys2Proof.Machine

/-! ### Work that fails at a primitive -/

theorem workPrims_prims (cfg : Config) (ps : List Prim) (ws : List MicroOp) :
    workPrims cfg (ps.map .prim ++ ws) = ps ++ workPrims cfg ws := by
  induction ps with
  | nil => rfl
  | cons p ps ih => simp [workPrims, ih]

/-- The step of work that reaches an event at every entry performs its first primitive and leaves the others to do. -/
theorem step_work {ws r : List MicroOp} {p : Prim} {qs : List Prim} {s : State} (hbusy : s.phase = .busy)
    (htodo : s.todo = ws ++ r) (hloud : ∀ m ∈ ws, m.loud = true) (hprims : workPrims s.cfg ws = p :: qs) :
    ∃ ws', (∀ m ∈ ws', m.loud = true) ∧ workPrims s.cfg ws' = qs ∧ step s = runPrim p (s.withTodo (ws' ++ r)) := by
  cases ws with
  | nil => cases hprims
  | cons m ws =>
    have hrest : ∀ n ∈ ws, n.loud = true := fun n hn => hloud n (List.mem_cons_of_mem m hn)
    have hm := hloud m List.mem_cons_self
    cases m with
    | prim p' =>
      obtain ⟨rfl, hqs⟩ := List.cons.inj hprims
      exact ⟨ws, hrest, hqs, step_busy_prim hbusy htodo⟩
    | cmd i =>
      have hi : i.port = .bus := by simpa [MicroOp.loud] using hm
      obtain ⟨p', ps, hframe⟩ := List.exists_cons_of_ne_nil (commandPrims_ne_nil hi s.cfg)
      rw [workPrims, hframe] at hprims
      obtain ⟨rfl, hqs⟩ := List.cons.inj hprims
      refine ⟨ps.map .prim ++ ws, fun n hn => ?_, (workPrims_prims s.cfg ps ws).trans hqs, ?_⟩
      · rcases List.mem_append.mp hn with hprim | hold
        · obtain ⟨q, -, rfl⟩ := List.mem_map.mp hprim
          rfl
        · exact hrest n hold
      · rw [step_busy_cmd hbusy htodo, exec_bus hi, State.withTodo_cfg, hframe, List.append_assoc]
        rfl
    | pull | clearFill | stagePixel | flush | markInit => cases hm

/-- Work whose primitives ps are answered OK and whose next primitive p fails ends there in the abort (R106, R175). -/
theorem run_work_aborts {ws r : List MicroOp} {ps qs : List Prim} {p : Prim} {e : ErrorKind} {s : State}
    (hbusy : s.phase = .busy) (htodo : s.todo = ws ++ r) (hloud : ∀ m ∈ ws, m.loud = true)
    (hprims : workPrims s.cfg ws = ps ++ p :: qs) (herror : p.error = some e) (hans : s.AnswersOk ps)
    (hfail : s.answerAt (ps.countP Prim.fallible) = .fail) :
    run (ps.length + 1) s = .next (((s.performedAll ps).performed p .fail).abort e) := by
  induction ps generalizing s ws with
  | nil =>
    obtain ⟨ws', -, -, hstep⟩ := step_work hbusy htodo hloud hprims
    exact run_succ (hstep.trans (runPrim_withTodo_fail _ herror hfail)) 0
  | cons p' ps ih =>
    obtain ⟨ws', hloud', hprims', hstep⟩ := step_work hbusy htodo hloud hprims
    rw [runPrim_withTodo_ok _ (AnswersOk.head hans)] at hstep
    obtain ⟨m, ws'', rfl⟩ : ∃ m ws'', ws' = m :: ws'' := by
      cases ws' with
      | nil => simp [workPrims] at hprims'
      | cons m ws'' => exact ⟨m, ws'', rfl⟩
    rw [List.cons_append, settle_loud (hloud' m List.mem_cons_self)] at hstep
    have hfail' : (s.performed p' .ok).answerAt (ps.countP Prim.fallible) = .fail := by
      have hone := answerAt_performedAll [p'] (ps.countP Prim.fallible) s
      rw [← List.countP_append, List.countP_append, Nat.add_comm, ← List.countP_append] at hone
      exact hone.trans hfail
    have hrest := ih (s := (s.performed p' .ok).withTodo (m :: (ws'' ++ r))) hbusy rfl hloud' hprims'
      (AnswersOk.tail hans) hfail'
    rw [performedAll_withTodo, State.performed_withTodo, State.abort_withTodo] at hrest
    exact (run_succ hstep _).trans hrest

/-- Settles O26: INIT's work is run up to the failing primitive, whose abort is known field by field. -/
theorem initAbortsAtTheFailingPrimitive : Obligations.InitAbortsAtTheFailingPrimitive := by
  intro s a b c d ps p qs hidle hdelay hprims hfallible hans hfail
  obtain ⟨e, herror⟩ := Option.isSome_iff_exists.mp hfallible
  set t := ((s.latch (reqByte 0#2 1#4) a b c d).setCtlInit false).withTodo initWork
  have hrun : run (ps.length + 1) t = .next (((t.performedAll ps).performed p .fail).abort e) :=
    run_work_aborts (ws := hardResetSeq ++ initSeq.flatMap initRow) (r := [.markInit]) rfl rfl (by decide)
      ((workPrims_init s.cfg).trans hprims) herror hans hfail
  refine ⟨t, _, exec_init hidle hdelay a b c d, hrun, ?trace, rfl, rfl, rfl, rfl, ?result, ?responses, ?count⟩
  case trace => simp [t]
  case result => cases p <;> cases herror <;> rfl
  case responses => simp [t]
  case count => simp [t]

/-! ### HARD_RESET and INIT -/

/-- A request whose work is primitives and commands alone completes behind the last of them (R102). -/
theorem run_work_completes {ws : List MicroOp} {s : State} (hbusy : s.phase = .busy) (htodo : s.todo = ws)
    (hne : ws ≠ []) (hloud : ∀ m ∈ ws, m.loud = true) (hans : s.AnswersOk (workPrims s.cfg ws)) :
    run (workPrims s.cfg ws).length s = .next (s.performedAll (workPrims s.cfg ws)).complete :=
  run_work (r := []) hbusy (by simpa using htodo) hne hloud hans

/-- Settles O23: the six primitives of HARD_RESET's work, and the completion. -/
theorem hardResetRunsToItsEnd : Obligations.HardResetRunsToItsEnd := by
  intro s a b c d hidle hdelay hans
  set t := ((s.latch (reqByte 0#2 2#4) a b c d).setCtlInit false).withTodo hardResetSeq
  have hrun : run 6 t = .next (t.performedAll hardResetPrims).complete :=
    run_work_completes (s := t) (ws := hardResetSeq) rfl rfl (by decide) (by decide) hans
  refine ⟨t, _, acceptTimed_idle hidle hdelay .., hrun, ?trace, rfl, rfl, rfl, rfl, rfl, rfl, rfl, rfl, rfl, rfl, rfl,
    rfl, rfl, rfl, rfl, rfl, fun _ => rfl⟩
  case trace => simp [t, okEvents, hardResetPrims]

theorem initPrims_rst (cfg : Config) (l : Line PinLevel) :
    (initPrims cfg).foldl (fun l p => p.rstAfter .ok l) l = .driven .high := by
  simp only [initPrims, List.foldl_append, frameCmd_rst]
  rfl

theorem initPrims_cs (cfg : Config) (l : Line Select) :
    (initPrims cfg).foldl (fun l p => p.csAfter .ok l) l =
      if cfg.variant = .discrete ∧ cfg.hasCs = true then .driven .desel else l := by
  simp only [initPrims, List.foldl_append, frameCmd_cs]
  by_cases hcs : cfg.variant = .discrete ∧ cfg.hasCs = true
  · simp only [hcs, and_self, if_true]; rfl
  · simp only [hcs, if_false]; rfl

theorem initPrims_dc (cfg : Config) (l : Line Ctx) :
    (initPrims cfg).foldl (fun l p => p.dcAfter .ok l) l = if cfg.variant = .discrete then .driven .cmd else l := by
  simp only [initPrims, List.foldl_append, frameCmd_dc]
  by_cases hdc : cfg.variant = .discrete
  · simp only [hdc, if_true]; rfl
  · simp only [hdc, if_false]; rfl

/-- Settles O24: the primitives of INIT's work, CTL_INIT, and the completion. -/
theorem initRunsToItsEnd : Obligations.InitRunsToItsEnd := by
  intro s a b c d hidle hdelay hans
  set t := ((s.latch (reqByte 0#2 1#4) a b c d).setCtlInit false).withTodo initWork
  have hrun : run (initPrims s.cfg).length t =
      .next ((t.performedAll (initPrims s.cfg)).setCtlInit true).complete := run_initWork (s := t) rfl rfl hans
  refine ⟨t, _, exec_init hidle hdelay a b c d, hrun, ?_, rfl, ?_, rfl, ?_, rfl, ?rst, ?cs, ?dc, ?req, ?_, ?_, ?_, ?_, ?_,
    ?_, ?_, fun j => ?_⟩
  case rst => simpa [t] using initPrims_rst s.cfg s.rstLvl
  case cs => simpa [t] using initPrims_cs s.cfg s.csLvl
  case dc => simpa [t] using initPrims_dc s.cfg s.dcLvl
  case req => simpa [t] using (by decide : reqByte 0#2 1#4 = 0x01)
  all_goals simp [t]

/-! ### SET_ORIENTATION -/

/-- A SET_ORIENTATION that an idle block accepts. -/
theorem exec_setOrientation {s : State} (hidle : s.phase = .idle) (ori : Orientation) (a b c d : Word) :
    exec (.setOrientation ori a b c d) s =
      .next ((s.latch (reqByte (oriCode ori) 3#4) a b c d).withTodo [.cmd (.madctl (oriByte ori))]) :=
  (drawingRequestsAreAccepted s a b c d hidle).1 ori

/-- Settles O27: the frame of MADCTL is all of the request's work. -/
theorem setOrientationRunsToItsEnd : Obligations.SetOrientationRunsToItsEnd := by
  intro s ori a b c d hidle byte ps hans
  have hbyte : byte = oriByte ori := by cases ori <;> rfl
  set t := (s.latch (reqByte (oriCode ori) 3#4) a b c d).withTodo [.cmd (.madctl (oriByte ori))]
  have hprims : workPrims t.cfg [.cmd (.madctl (oriByte ori))] = ps := by
    simp [workPrims, commandPrims, ps, hbyte, t]
  have hrun := run_work_completes (s := t) (ws := [.cmd (.madctl (oriByte ori))]) rfl rfl (by simp)
    (by simp [MicroOp.loud, Instr.port]) (hprims.symm ▸ hans)
  rw [hprims] at hrun
  refine ⟨t, _, exec_setOrientation hidle ori a b c d, hrun, ?_, rfl, ?_, rfl, ?_, ?_, ?rst, ?cs, ?dc, ?_, ?_, ?_, ?_,
    ?_, ?_, ?_, ?_, fun j => ?_⟩
  case rst => simpa [t] using frameCmd_rst s.cfg _ _ s.rstLvl
  case cs => simpa [t] using frameCmd_cs s.cfg _ _ s.csLvl
  case dc => simpa [t] using frameCmd_dc s.cfg s.cfg.opc.madctl [byte] s.dcLvl
  all_goals simp [t]

end Sys2Proof.Machine
end

section
/-! SET_PIXEL and SET_PIXELS followed to their end, field by field (spec/42_window_sequencer.md R122, R125, R128): what a
stretch of a run leaves of every register (`Ran`), and STREAM's loop over any stream that answers, with an END or without
one (93_implementation_defined.md I17). -/

namespace Sys2Proof.Machine

/-! ### What a stretch of a run leaves -/

/-- From s to u the running request performed the primitives ps, all OK, and pulled so many tokens; it has not ended. -/
structure Ran (ps : List Prim) (pulls : Nat) (s u : State) : Prop where
  cfg : u.cfg = s.cfg
  req : u.req = s.req
  a : u.a = s.a
  b : u.b = s.b
  c : u.c = s.c
  d : u.d = s.d
  refused : u.refused = s.refused
  ctlInit : u.ctlInit = s.ctlInit
  result : u.result = s.result
  responses : u.responses = s.responses
  trace : u.trace = s.trace ++ okEvents ps
  stepCount : u.stepCount = s.stepCount + ps.length + pulls
  rstLvl : u.rstLvl = ps.foldl (fun l p => p.rstAfter .ok l) s.rstLvl
  csLvl : u.csLvl = ps.foldl (fun l p => p.csAfter .ok l) s.csLvl
  dcLvl : u.dcLvl = ps.foldl (fun l p => p.dcAfter .ok l) s.dcLvl
  answers : ∀ k, u.answerAt k = s.answerAt (k + ps.countP Prim.fallible)
  buf : ∀ j, 2 * s.cfg.chunk ≤ j → Memory.read u.buf j = Memory.read s.buf j

theorem Ran.trans {ps qs : List Prim} {m n : Nat} {s t u : State} (h : Ran ps m s t) (h' : Ran qs n t u) :
    Ran (ps ++ qs) (m + n) s u where
  cfg := h'.cfg.trans h.cfg
  req := h'.req.trans h.req
  a := h'.a.trans h.a
  b := h'.b.trans h.b
  c := h'.c.trans h.c
  d := h'.d.trans h.d
  refused := h'.refused.trans h.refused
  ctlInit := h'.ctlInit.trans h.ctlInit
  result := h'.result.trans h.result
  responses := h'.responses.trans h.responses
  trace := by rw [h'.trace, h.trace, okEvents_append, List.append_assoc]
  stepCount := by rw [h'.stepCount, h.stepCount, List.length_append]; omega
  rstLvl := by rw [h'.rstLvl, h.rstLvl, List.foldl_append]
  csLvl := by rw [h'.csLvl, h.csLvl, List.foldl_append]
  dcLvl := by rw [h'.dcLvl, h.dcLvl, List.foldl_append]
  answers k := by rw [h'.answers, h.answers, List.countP_append]; congr 1; omega
  buf j hj := (h'.buf j (h.cfg ▸ hj)).trans (h.buf j hj)

theorem Ran.refl (s : State) : Ran [] 0 s s := by constructor <;> simp [okEvents]

theorem ran_performedAll (ps : List Prim) (s : State) : Ran ps 0 s (s.performedAll ps) := by
  constructor <;> simp [answerAt_performedAll]

/-- What is left to do is not among what a stretch is said to leave. -/
theorem Ran.withTodo {ps : List Prim} {n : Nat} {s u : State} (h : Ran ps n s u) (ops : List MicroOp) :
    Ran ps n s (u.withTodo ops) := { h with }

theorem Ran.clearFill {ps : List Prim} {n : Nat} {s u : State} (h : Ran ps n s u) : Ran ps n s u.clearFill := { h with }

theorem Ran.answersOk {ps qs : List Prim} {n : Nat} {s u : State} (h : Ran ps n s u) (hans : s.AnswersOk (ps ++ qs)) :
    u.AnswersOk qs := fun k hk => by
  rw [h.answers]
  exact hans _ (by rw [List.countP_append]; omega)

theorem ran_pulled (st : TokenStream) (s : State) : Ran [] 1 s (s.pulled st) := by
  constructor <;> simp [okEvents, State.answerAt]

theorem ran_tookWord {s : State} (hroom : s.fill < s.cfg.chunk) (st : TokenStream) (c : Word) :
    Ran [] 1 s (s.tookWord st c) where
  cfg := rfl
  req := rfl
  a := rfl
  b := rfl
  c := rfl
  d := rfl
  refused := rfl
  ctlInit := rfl
  result := rfl
  responses := rfl
  trace := (List.append_nil _).symm
  stepCount := rfl
  rstLvl := rfl
  csLvl := rfl
  dcLvl := rfl
  answers _ := rfl
  buf j hj := by
    simp only [State.tookWord, State.staged_buf, State.pulled_buf, State.pulled_fill, State.withTodo_fill,
      State.withTodo_buf]
    rw [Memory.read_write_other _ _ (by omega), Memory.read_write_other _ _ (by omega)]

/-! ### STREAM's loop -/

/-- The stream st answers Pulls with the words cs, and st' is left. -/
def Supplies : TokenStream → List Word → TokenStream → Prop
  | st, [], st' => st' = st
  | st, c :: cs, st' => ∃ st₁, st.pull = some (wordToken c, st₁) ∧ Supplies st₁ cs st'

theorem supplies_listed (cs : List Word) (ts : List Token) (after : StreamEnd) :
    Supplies ⟨cs.map wordToken ++ ts, after⟩ cs ⟨ts, after⟩ := by
  induction cs with
  | nil => rfl
  | cons c cs ih => exact ⟨_, rfl, ih⟩

theorem supplies_endless (n k : Nat) :
    Supplies ⟨[], .endless n⟩ ((List.range k).map fun i => Config.freeColour (n + i)) ⟨[], .endless (n + k)⟩ := by
  induction k generalizing n with
  | zero => rfl
  | succ k ih =>
    have hshift : (List.range (k + 1)).map (fun i => Config.freeColour (n + i)) =
        Config.freeColour n :: (List.range k).map fun i => Config.freeColour (n + 1 + i) := by
      simp [List.range_succ_eq_map, Function.comp_def, Nat.add_assoc, Nat.add_comm 1]
    rw [hshift, show n + (k + 1) = n + 1 + k by omega]
    exact ⟨_, rfl, ih (n + 1)⟩

theorem Supplies.append {st st₁ st₂ : TokenStream} {cs ds : List Word} (h : Supplies st cs st₁)
    (h' : Supplies st₁ ds st₂) : Supplies st (cs ++ ds) st₂ := by
  induction cs generalizing st with
  | nil => cases h; exact h'
  | cons c cs ih =>
    obtain ⟨st', hpull, hrest⟩ := h
    exact ⟨st', hpull, ih hrest⟩

/-- STREAM's loop over the words cs, the words ws being staged before: the full buffers have been sent, and ws' are staged
and wait for more (R125). -/
structure Looped (cfg : Config) (ws cs : List Word) (st' : TokenStream) (s : State) (ps : List Prim) (ws' : List Word)
    (u : State) : Prop where
  run : run (ps.length + cs.length) s = .next u
  pulling : Pulling cfg ws' u
  ran : Ran ps cs.length s u
  stream : u.stream = st'
  sent : streamPrims cfg (ws ++ cs) = ps ++ streamPrims cfg ws'
  full : ∃ q, ws.length + cs.length = cfg.chunk * q + ws'.length

theorem Pulling.loop {cfg : Config} {ws cs : List Word} {st' : TokenStream} {s : State} (h : Pulling cfg ws s)
    (hsupplies : Supplies s.stream cs st') (hans : s.AnswersOk (streamPrims cfg (ws ++ cs))) :
    ∃ ps ws' u, Looped cfg ws cs st' s ps ws' u := by
  induction cs generalizing ws s with
  | nil =>
    exact ⟨[], ws, s, ⟨rfl, h, .refl s, hsupplies.symm, by simp, 0, by simp⟩⟩
  | cons c cs ih =>
    obtain ⟨st₁, hpull, hrest⟩ := hsupplies
    have hroom : s.fill < s.cfg.chunk := by rw [h.fill, h.config]; exact h.room
    rw [List.append_cons] at hans
    by_cases hfull : ws.length + 1 = cfg.chunk
    case pos =>
      have hsent := streamPrims_full cfg (ws ++ [c]) cs (by simpa using hfull) (by omega)
      rw [hsent] at hans
      set frame := frameData cfg ((ws ++ [c]).flatMap be16) with hframe
      obtain ⟨hrun, hnext⟩ := h.word_full hpull hfull hframe (AnswersOk.append_left hans)
      have hran : Ran frame 1 s (((s.tookWord st₁ c).performedAll frame).clearFill.withTodo [.pull]) :=
        ((ran_tookWord hroom st₁ c).trans (ran_performedAll frame _)).clearFill.withTodo [.pull]
      obtain ⟨ps, ws', u, hloop⟩ := ih hnext (by simpa using hrest) (hran.answersOk hans)
      obtain ⟨q, hq⟩ := hloop.full
      refine ⟨frame ++ ps, ws', u, ⟨?_, hloop.pulling, ?_, hloop.stream, ?_, q + 1, ?_⟩⟩
      · rw [show (frame ++ ps).length + (c :: cs).length = frame.length + 1 + (ps.length + cs.length) by simp; omega]
        exact (run_add hrun _).trans hloop.run
      · simpa [Nat.add_comm] using hran.trans hloop.ran
      · rw [List.append_cons, hsent, List.append_assoc, ← hloop.sent, List.nil_append]
      · simp only [List.length_nil, List.length_cons, Nat.mul_add] at hq ⊢
        omega
    case neg =>
      obtain ⟨hstep, hnext⟩ := h.word_room hpull hfull
      have hran : Ran [] 1 s ((s.tookWord st₁ c).withTodo [.pull]) := (ran_tookWord hroom st₁ c).withTodo [.pull]
      obtain ⟨ps, ws', u, hloop⟩ := ih hnext hrest (hran.answersOk hans)
      obtain ⟨q, hq⟩ := hloop.full
      refine ⟨ps, ws', u, ⟨?_, hloop.pulling, ?_, hloop.stream, ?_, q, ?_⟩⟩
      · exact (run_succ hstep (ps.length + cs.length)).trans hloop.run
      · simpa [Nat.add_comm] using hran.trans hloop.ran
      · rw [List.append_cons, hloop.sent]
      · simp only [List.length_append, List.length_cons, List.length_nil] at hq ⊢
        omega

/-- END sends what is staged, if anything, and completes (R125). -/
theorem Pulling.finish {cfg : Config} {ws : List Word} {s : State} {e : Token} {st : TokenStream} (h : Pulling cfg ws s)
    (hpull : s.stream.pull = some (e, st)) (hend : tokenItem e = .endOfStream)
    (hans : s.AnswersOk (streamPrims cfg ws)) :
    ∃ v, run ((streamPrims cfg ws).length + 1) s = .next v.complete ∧ Ran (streamPrims cfg ws) 1 s v ∧ v.fill = 0 ∧
      v.stream = st := by
  obtain ⟨rfl, hbusy, htodo, hfill, hroom, hstaged⟩ := h
  have hstep := step_pull_end hbusy htodo hpull hend
  by_cases hws : ws = []
  case pos =>
    subst hws
    have hempty : (s.pulled st).fill = 0 := hfill
    rw [settle, if_pos hempty, settle] at hstep
    exact ⟨s.pulled st, run_succ hstep 0, ran_pulled st s, hempty, rfl⟩
  case neg =>
    rw [streamPrims_last s.cfg ws hroom.le hws] at hans ⊢
    have hsome : s.fill ≠ 0 := by simpa [hfill] using hws
    obtain ⟨v, hflush, hrun⟩ := flush_run (r := []) (u := s.pulled st) hbusy hsome hstaged hans
    exact ⟨_, (run_succ (hstep.trans hflush) _).trans hrun,
      ((ran_pulled st s).trans (ran_performedAll _ _)).clearFill, rfl, performedAll_stream ..⟩

/-! ### The lines a drawing request drives -/

theorem windowPrims_rst (cfg : Config) (sx sy ex ey : Word) (l : Line PinLevel) :
    (windowPrims cfg sx sy ex ey).foldl (fun l p => p.rstAfter .ok l) l = l := by
  simp only [windowPrims, List.foldl_append, frameCmd_rst]

theorem windowPrims_cs (cfg : Config) (sx sy ex ey : Word) (l : Line Select) :
    (windowPrims cfg sx sy ex ey).foldl (fun l p => p.csAfter .ok l) l =
      if cfg.variant = .discrete ∧ cfg.hasCs = true then .driven .desel else l := by
  simp only [windowPrims, List.foldl_append, frameCmd_cs]
  split_ifs <;> rfl

theorem windowPrims_dc (cfg : Config) (sx sy ex ey : Word) (l : Line Ctx) :
    (windowPrims cfg sx sy ex ey).foldl (fun l p => p.dcAfter .ok l) l =
      if cfg.variant = .discrete then .driven .cmd else l := by
  simp only [windowPrims, List.foldl_append, frameCmd_dc]
  split_ifs <;> rfl

/-- A line goes through the data frames of a stream one after the other. -/
theorem foldl_streamPrims {α : Type} (f : α → Prim → α) (cfg : Config) (cs : List Word) (l : α) :
    (streamPrims cfg cs).foldl f l =
      (chunks cfg.chunk cs.length cs).foldl (fun l g => (frameData cfg (g.flatMap be16)).foldl f l) l :=
  List.foldl_flatMap

theorem streamPrims_rst (cfg : Config) (cs : List Word) (l : Line PinLevel) :
    (streamPrims cfg cs).foldl (fun l p => p.rstAfter .ok l) l = l := by
  simp only [foldl_streamPrims, frameData_rst, List.foldl_fixed]

theorem streamPrims_cs (cfg : Config) (cs : List Word) (l : Line Select) :
    (streamPrims cfg cs).foldl (fun l p => p.csAfter .ok l)
        (if cfg.variant = .discrete ∧ cfg.hasCs = true then .driven .desel else l) =
      if cfg.variant = .discrete ∧ cfg.hasCs = true then .driven .desel else l := by
  simp only [foldl_streamPrims, frameData_cs]
  split_ifs <;> exact List.foldl_fixed' (fun _ => rfl) _

theorem streamPrims_dc (cfg : Config) (cs : List Word) (l : Line Ctx) :
    (streamPrims cfg cs).foldl (fun l p => p.dcAfter .ok l) (if cfg.variant = .discrete then .driven .cmd else l) =
      if cfg.variant = .discrete then .driven (if cs = [] then .cmd else .data) else l := by
  simp only [foldl_streamPrims, frameData_dc]
  by_cases hdc : cfg.variant = .discrete
  case neg => simp only [hdc, if_false, List.foldl_fixed]
  case pos =>
    simp only [hdc, if_true]
    cases cs with
    | nil => rfl
    | cons c cs =>
      rw [List.length_cons, chunks, List.foldl_cons]
      exact List.foldl_fixed' (fun _ => rfl) _

/-! ### SET_PIXEL -/

/-- The window's frames and memory-write, all answered OK, and then what stands behind them (R122 to R124). -/
theorem run_window {sx sy ex ey : Word} {r : List MicroOp} {s : State} (hbusy : s.phase = .busy)
    (htodo : s.todo = window sx sy ex ey ++ [.cmd .ramwr] ++ r) (hans : s.AnswersOk (windowPrims s.cfg sx sy ex ey)) :
    run (windowPrims s.cfg sx sy ex ey).length s = settle r (s.performedAll (windowPrims s.cfg sx sy ex ey)) := by
  rw [← workPrims_window] at hans ⊢
  exact run_work hbusy htodo (by simp) (by simp [window, MicroOp.loud, Instr.port]) hans

/-- A SET_PIXEL that an idle block accepts. -/
theorem exec_setPixel {s : State} (hidle : s.phase = .idle) (x y color d : Word) :
    exec (.setPixel x y color d) s = .next ((s.latch (reqByte 0#2 4#4) x y color d).withTodo
      (window x y x y ++ [.cmd .ramwr] ++ [.stagePixel, .flush])) :=
  accept_idle hidle ..

/-- SET_PIXEL's one colour is staged into an empty BUF, sent as one data frame, and the request completes (R128). -/
theorem run_stagePixel {s : State} (hbusy : s.phase = .busy) (hchunk : 1 ≤ s.cfg.chunk)
    (hans : s.AnswersOk (frameData s.cfg (be16 s.c))) :
    ∃ v, settle [.stagePixel, .flush] s = .next v ∧ run (frameData s.cfg (be16 s.c)).length v =
      .next ((s.clearFill.staged s.c).performedAll (frameData s.cfg (be16 s.c))).clearFill.complete := by
  have hstage : s.clearFill.stageWord s.c = some (s.clearFill.staged s.c) :=
    State.stageWord_of_lt (s := s.clearFill) hchunk s.c
  have hbytes : (s.clearFill.staged s.c).stagedBytes = some (be16 s.c) := stagedBytes_staged (s := s.clearFill) rfl s.c
  obtain ⟨v, hflush, hrun⟩ := flush_run (r := []) (u := s.clearFill.staged s.c) hbusy (Nat.succ_ne_zero _) hbytes hans
  refine ⟨v, ?_, hrun⟩
  rw [settle, hstage]
  exact hflush

/-- Settles O28: the window, then the one colour staged, sent and done with. -/
theorem setPixelRunsToItsEnd : Obligations.SetPixelRunsToItsEnd := by
  intro s x y color d hidle hchunk ps hans
  set t := (s.latch (reqByte 0#2 4#4) x y color d).withTodo (window x y x y ++ [.cmd .ramwr] ++ [.stagePixel, .flush])
  set win := windowPrims s.cfg x y x y
  have hwindow : run win.length t = settle [.stagePixel, .flush] (t.performedAll win) :=
    run_window (s := t) rfl rfl (AnswersOk.append_left hans)
  have hcfg : (t.performedAll win).cfg = s.cfg := performedAll_cfg win t
  have hcolor : (t.performedAll win).c = color := performedAll_c win t
  have hpixel := run_stagePixel (s := t.performedAll win) (by simp [t]) (hcfg ▸ hchunk)
    (by rw [hcfg, hcolor]; exact AnswersOk.append_right (s := t) hans)
  rw [hcfg, hcolor] at hpixel
  obtain ⟨v, hsettle, hflush⟩ := hpixel
  have hrun := (run_add (hwindow.trans hsettle) _).trans hflush
  rw [← List.length_append] at hrun
  refine ⟨t, _, exec_setPixel hidle x y color d, hrun, ?_, rfl, ?_, rfl, ?_, rfl, ?hi, ?lo, fun j hj => ?other, ?req, ?_,
    ?_, ?_, ?_, ?_, ?rst, ?_, ?_, ?_, ?cs, ?dc⟩
  case hi => simp [Memory.read_write_other]
  case lo => simp
  case other =>
    simp only [State.complete_buf, State.clearFill_buf, performedAll_buf, State.staged_buf, State.clearFill_fill]
    rw [Memory.read_write_other _ _ (by omega), Memory.read_write_other _ _ (by omega)]
    rfl
  case req => simpa [t] using (by decide : reqByte 0#2 4#4 = 0x04)
  case rst => simp [t, win, windowPrims_rst, frameData_rst]
  case cs =>
    simp only [State.complete_csLvl, State.clearFill_csLvl, performedAll_csLvl, State.staged_csLvl, windowPrims_cs,
      frameData_cs, win]
    split_ifs <;> rfl
  case dc =>
    simp only [State.complete_dcLvl, State.clearFill_dcLvl, performedAll_dcLvl, State.staged_dcLvl, windowPrims_dc,
      frameData_dc, win]
    split_ifs <;> rfl
  all_goals simp [t, win, ps, okEvents_append]

/-! ### SET_PIXELS -/

/-- SET_PIXELS, accepted by an idle block, comes to STREAM's loop with nothing staged, and the window is sent. -/
theorem setPixels_comes_to_stream {s : State} (hidle : s.phase = .idle) (hchunk : 1 ≤ s.cfg.chunk) (sx sy ex ey : Word)
    (hans : s.AnswersOk (windowPrims s.cfg sx sy ex ey)) :
    ∃ u, exec (.setPixels sx sy ex ey) s = .next (s.accepted (.setPixels sx sy ex ey)) ∧
      run (windowPrims s.cfg sx sy ex ey).length (s.accepted (.setPixels sx sy ex ey)) = .next u ∧
      Pulling s.cfg [] u ∧ Ran (windowPrims s.cfg sx sy ex ey) 0 (s.accepted (.setPixels sx sy ex ey)) u ∧
      u.stream = s.stream := by
  set t := s.accepted (.setPixels sx sy ex ey)
  set win := windowPrims s.cfg sx sy ex ey
  have hrun : run win.length t = .next ((t.performedAll win).clearFill.withTodo [.pull]) :=
    run_window (s := t) (r := [.clearFill, .pull]) rfl rfl hans
  have hpulling : Pulling s.cfg [] ((t.performedAll win).clearFill.withTodo [.pull]) :=
    ⟨performedAll_cfg win t, performedAll_phase win t, rfl, rfl, hchunk, rfl⟩
  exact ⟨_, exec_accepted rfl hidle (by simp [needsDelay]), hrun, hpulling,
    (ran_performedAll win t).clearFill.withTodo [.pull], performedAll_stream win t⟩

/-- The fields that acceptance writes and a run of SET_PIXELS leaves (R101). -/
theorem Ran.setPixels_latches {ps : List Prim} {n : Nat} {s u : State} {sx sy ex ey : Word}
    (h : Ran ps n (s.accepted (.setPixels sx sy ex ey)) u) :
    u.req = 0x05 ∧ u.a = sx ∧ u.b = sy ∧ u.c = ex ∧ u.d = ey := by
  have hlatch : (s.accepted (.setPixels sx sy ex ey)).req = 0x05 ∧ (s.accepted (.setPixels sx sy ex ey)).a = sx ∧
      (s.accepted (.setPixels sx sy ex ey)).b = sy ∧ (s.accepted (.setPixels sx sy ex ey)).c = ex ∧
      (s.accepted (.setPixels sx sy ex ey)).d = ey := by
    rw [State.accepted, encodeDesc_setPixels, State.latchDesc_descOf]
    exact ⟨rfl, rfl, rfl, rfl, rfl⟩
  rwa [h.req, h.a, h.b, h.c, h.d]

theorem Ran.drawing_rst {s u : State} {n : Nat} {cfg : Config} {sx sy ex ey : Word} {cs : List Word}
    (h : Ran (windowPrims cfg sx sy ex ey ++ streamPrims cfg cs) n s u) : u.rstLvl = s.rstLvl := by
  rw [h.rstLvl, List.foldl_append, windowPrims_rst, streamPrims_rst]

/-- Settles O29: the window, STREAM's loop over the colours, and the END. -/
theorem setPixelsRunsToItsEnd : Obligations.SetPixelsRunsToItsEnd := by
  intro s sx sy ex ey cs e rest hidle hchunk htokens hend ps hans
  set t := s.accepted (.setPixels sx sy ex ey)
  obtain ⟨u, hexec, hwindow, hpulling, hran, hstream⟩ :=
    setPixels_comes_to_stream hidle hchunk sx sy ex ey (AnswersOk.append_left hans)
  have hsupplies : Supplies u.stream cs ⟨e :: rest, s.stream.after⟩ := by
    have hlisted : u.stream = ⟨cs.map wordToken ++ e :: rest, s.stream.after⟩ := by rw [hstream, ← htokens]
    rw [hlisted]
    exact supplies_listed cs _ _
  have hans' : u.AnswersOk (streamPrims s.cfg cs) := hran.answersOk (s := t) hans
  obtain ⟨sent, ws, v, hloop⟩ := hpulling.loop hsupplies hans'
  have hsent : streamPrims s.cfg cs = sent ++ streamPrims s.cfg ws := hloop.sent
  have hpull : v.stream.pull = some (e, ⟨rest, s.stream.after⟩) := by
    rw [hloop.stream]
    rfl
  obtain ⟨w, hrun, hlast, hempty, hleft⟩ := hloop.pulling.finish hpull hend (hloop.ran.answersOk (hsent ▸ hans'))
  have hall : Ran ps (cs.length + 1) t w := by
    have hboth := hran.trans (hloop.ran.trans hlast)
    rwa [← hsent, Nat.zero_add] at hboth
  have hcount : ps.length + cs.length + 1 = (windowPrims s.cfg sx sy ex ey).length + ((sent.length + cs.length) +
      ((streamPrims s.cfg ws).length + 1)) := by
    simp only [ps, hsent, List.length_append]
    omega
  have hwhole : run (ps.length + cs.length + 1) t = .next w.complete := by
    rw [hcount]
    exact (run_add hwindow _).trans ((run_add hloop.run _).trans hrun)
  obtain ⟨hreq, ha, hb, hc, hd⟩ := hall.setPixels_latches
  refine ⟨t, w.complete, hexec, hwhole, hall.trace, rfl, ?responses, rfl, ?count, hempty, hleft, hreq, ha, hb, hc, hd,
    hall.ctlInit, hall.drawing_rst, hall.cfg, hall.refused, ?cs, ?dc, fun j hj => hall.buf j hj⟩
  case responses => exact congrArg (· ++ [Result.ok]) hall.responses
  case count => exact hall.stepCount.trans (by simp [t, State.accepted, State.latchDesc, Nat.add_assoc])
  case cs => exact hall.csLvl.trans (by rw [List.foldl_append, windowPrims_cs, streamPrims_cs]; rfl)
  case dc => exact hall.dcLvl.trans (by rw [List.foldl_append, windowPrims_dc, streamPrims_dc]; rfl)

/-- Settles O50: STREAM's loop over the listed colours and then the free ones, as many as fill BUF q times, stages nothing
that it has not sent. -/
theorem endlessStreamIsSentOn : Obligations.EndlessStreamIsSentOn := by
  intro s sx sy ex ey cs n q hidle hchunk hs hq more sent ps hans
  set t := s.accepted (.setPixels sx sy ex ey)
  obtain ⟨u, hexec, hwindow, hpulling, hran, hstream⟩ :=
    setPixels_comes_to_stream hidle hchunk sx sy ex ey (AnswersOk.append_left hans)
  have hsupplies : Supplies u.stream sent ⟨[], .endless (n + more)⟩ := by
    have hlisted := supplies_listed cs [] (.endless n)
    rw [List.append_nil, ← hs, ← hstream] at hlisted
    exact hlisted.append (supplies_endless n more)
  have hlength : sent.length = q * s.cfg.chunk := by
    simp only [sent, List.length_append, List.length_map, List.length_range, more]
    omega
  obtain ⟨out, ws, v, hloop⟩ := hpulling.loop hsupplies (hran.answersOk (s := t) hans)
  have hnone : ws = [] := by
    obtain ⟨q', hfull⟩ := hloop.full
    have hmod := congrArg (· % s.cfg.chunk) hfull
    simp only [List.length_nil, Nat.zero_add, hlength, Nat.mul_mod_left, Nat.mul_add_mod_self_left,
      Nat.mod_eq_of_lt hloop.pulling.room] at hmod
    exact List.eq_nil_of_length_eq_zero hmod.symm
  subst hnone
  have hout : streamPrims s.cfg sent = out := by simpa [streamPrims, chunks] using hloop.sent
  have hall : Ran ps (q * s.cfg.chunk) t v := by
    have hboth := hran.trans hloop.ran
    rwa [← hout, Nat.zero_add, hlength] at hboth
  have hwhole : run (ps.length + q * s.cfg.chunk) t = .next v := by
    have hrun := (run_add hwindow _).trans hloop.run
    rwa [← hout, hlength, ← Nat.add_assoc, ← List.length_append] at hrun
  obtain ⟨hreq, ha, hb, hc, hd⟩ := hall.setPixels_latches
  refine ⟨t, v, hexec, hwhole, hall.trace, hloop.pulling.busy, hloop.pulling.todo, hloop.pulling.fill, hall.result,
    hall.responses, ?count, hloop.stream, hall.ctlInit, hall.drawing_rst, hall.cfg, hall.refused, hreq, ha, hb, hc, hd⟩
  case count => exact hall.stepCount.trans (by simp [t, State.accepted, State.latchDesc])

/-- Settles O32: the stream of one colour is one group, whose data frame is SET_PIXEL's. -/
theorem setPixelIsSetPixelsOfOneColour : Obligations.SetPixelIsSetPixelsOfOneColour := by
  intro s s' x y c d rest hidle hidle' hcfg hchunk htokens hans hans'
  have hone : streamPrims s'.cfg [c] = frameData s.cfg (be16 c) := by
    rw [hcfg, streamPrims_last s.cfg [c] hchunk (by simp)]
    simp
  rw [← hone, ← hcfg] at hans'
  obtain ⟨t, u, hexec, hrun, htrace, hresult, -, hphase, -⟩ := setPixelRunsToItsEnd s x y c d hidle hchunk hans
  obtain ⟨t', u', hexec', hrun', htrace', hresult', -, hphase', -⟩ :=
    setPixelsRunsToItsEnd s' x y x y [c] endToken rest hidle' (hcfg ▸ hchunk) htokens tokenItem_endToken
      hans'
  refine ⟨t, t', _, _, u, u', _, hexec, hexec', hrun, hrun', hphase, hphase', hresult, hresult', htrace, ?_⟩
  rw [htrace', hone, hcfg]

end Sys2Proof.Machine
end

section
/-! The wait floors (spec/70_reset_and_hazards.md R198): no frame contains a wait, so the floors of a request are those of
its hard reset and of INIT's table. -/

namespace Sys2Proof.Machine

/-- The sum of the wait floors of primitives that all completed. -/
def floors (ps : List Prim) : Nat := waitFloor (okEvents ps)

theorem floors_append (ps qs : List Prim) : floors (ps ++ qs) = floors ps + floors qs := by
  simp only [floors, waitFloor, okEvents_append, List.map_append, List.sum_append]

theorem floors_eq_zero {ps : List Prim} (h : ∀ p ∈ ps, Event.floor ⟨p, .ok⟩ = 0) : floors ps = 0 := by
  induction ps with
  | nil => rfl
  | cons p ps ih =>
    have hrest : floors ps = 0 := ih fun q hq => h q (List.mem_cons_of_mem p hq)
    calc floors (p :: ps) = Event.floor ⟨p, .ok⟩ + floors ps := List.sum_cons
      _ = 0 := by rw [h p List.mem_cons_self, hrest]

theorem LineDrive.floor {cfg : Config} {p : Prim} (h : LineDrive cfg p) : Event.floor ⟨p, .ok⟩ = 0 := by
  obtain ⟨-, ⟨c, rfl⟩ | ⟨-, l, rfl⟩⟩ := h <;> rfl

theorem floors_frameCmd (cfg : Config) (op : Byte) (params : List Byte) : floors (frameCmd cfg op params) = 0 := by
  refine floors_eq_zero fun p hp => ?_
  rcases mem_frameCmd hp with rfl | ⟨rfl, -⟩ | hline
  · rfl
  · rfl
  · exact hline.floor

theorem floor_of_mem_frameData {cfg : Config} {bytes : List Byte} {p : Prim} (hp : p ∈ frameData cfg bytes) :
    Event.floor ⟨p, .ok⟩ = 0 := by
  rcases mem_frameData hp with rfl | hline
  · rfl
  · exact hline.floor

theorem floors_frameData (cfg : Config) (bytes : List Byte) : floors (frameData cfg bytes) = 0 :=
  floors_eq_zero fun _ => floor_of_mem_frameData

theorem floors_streamPrims (cfg : Config) (cs : List Word) : floors (streamPrims cfg cs) = 0 := by
  refine floors_eq_zero fun p hp => ?_
  obtain ⟨g, -, hframe⟩ := List.mem_flatMap.mp hp
  exact floor_of_mem_frameData hframe

theorem floors_windowPrims (cfg : Config) (sx sy ex ey : Word) : floors (windowPrims cfg sx sy ex ey) = 0 := by
  simp only [windowPrims, floors_append, floors_frameCmd]

/-- The floors of INIT are those of the hard reset and of the table of R105. -/
theorem floors_initPrims (cfg : Config) : floors (initPrims cfg) = 190030 := by
  simp only [initPrims, floors_append, floors_frameCmd]
  rfl

/-- Settles O49: each request runs to its end as settled above, and its primitives' floors add up. -/
theorem waitFloorsTotal : Obligations.WaitFloorsTotal := by
  intro s a b c d hidle appends
  refine ⟨fun hdelay hans => ?reset, fun hdelay hans => ?init, fun ori hans => ?orientation, fun hchunk hans => ?pixel,
    fun cs e rest hchunk htokens hend hans => ?pixels,
    fun op ps => ⟨floors_frameCmd s.cfg op ps, floors_frameData s.cfg ps⟩⟩
  case reset =>
    obtain ⟨t, u, hexec, hrun, htrace, hresult, hresponses, hphase, -⟩ :=
      hardResetRunsToItsEnd s a b c d hidle hdelay hans
    exact ⟨t, _, u, _, hexec, hrun, hphase, hresult, hresponses, htrace, rfl⟩
  case init =>
    obtain ⟨t, u, hexec, hrun, htrace, hresult, hresponses, hphase, -⟩ := initRunsToItsEnd s a b c d hidle hdelay hans
    exact ⟨t, _, u, _, hexec, hrun, hphase, hresult, hresponses, htrace, floors_initPrims s.cfg⟩
  case orientation =>
    obtain ⟨t, u, hexec, hrun, htrace, hresult, hresponses, hphase, -⟩ :=
      setOrientationRunsToItsEnd s ori a b c d hidle (by cases ori <;> exact hans)
    exact ⟨t, _, u, _, hexec, hrun, hphase, hresult, hresponses, htrace, floors_frameCmd ..⟩
  case pixel =>
    obtain ⟨t, u, hexec, hrun, htrace, hresult, hresponses, hphase, -⟩ :=
      setPixelRunsToItsEnd s a b c d hidle hchunk hans
    refine ⟨t, _, u, _, hexec, hrun, hphase, hresult, hresponses, htrace, ?_⟩
    exact (floors_append _ _).trans (by rw [floors_windowPrims, floors_frameData])
  case pixels =>
    obtain ⟨t, u, hexec, hrun, htrace, hresult, hresponses, hphase, -⟩ :=
      setPixelsRunsToItsEnd s a b c d cs e rest hidle hchunk htokens hend hans
    refine ⟨t, _, u, _, hexec, hrun, hphase, hresult, hresponses, htrace, ?_⟩
    exact (floors_append _ _).trans (by rw [floors_windowPrims, floors_streamPrims])

end Sys2Proof.Machine
end

section
/-! What no rule reads changes nothing but itself: CTL_INIT (spec/10_state.md R35) and the operand fields a request does
not use (spec/30_encoding.md R75). A change f of such a field is carried through every step, or a write of the field
undoes it. -/

namespace Sys2Proof.Machine

/-- The change f touches nothing a step reads, but for the latch C; every update carries it along, and those that write
the field it changes may undo it. -/
structure Unseen (f : State → State) : Prop where
  cfg : ∀ s, (f s).cfg = s.cfg
  phase : ∀ s, (f s).phase = s.phase
  todo : ∀ s, (f s).todo = s.todo
  hostOps : ∀ s, (f s).hostOps = s.hostOps
  stream : ∀ s, (f s).stream = s.stream
  fill : ∀ s, (f s).fill = s.fill
  stagedBytes : ∀ s, (f s).stagedBytes = s.stagedBytes
  nextAnswer : ∀ s, (f s).nextAnswer = s.nextAnswer
  withTodo : ∀ ops s, (f s).withTodo ops = f (s.withTodo ops)
  clearFill : ∀ s, (f s).clearFill = f s.clearFill
  staged : ∀ c s, (f s).staged c = f (s.staged c)
  pulled : ∀ st s, (f s).pulled st = f (s.pulled st)
  withHost : ∀ ops st s, (f s).withHost ops st = f (s.withHost ops st)
  performed : ∀ p o s, (f s).performed p o = f (s.performed p o)
  complete : ∀ s, (f s).complete = f s.complete
  refuse : ∀ r s, (f s).refuse r = f (s.refuse r)
  readResult : ∀ s, (f s).readResult = f s.readResult
  setCtlInit : ∀ b s, (f s).setCtlInit b = f (s.setCtlInit b) ∨ (f s).setCtlInit b = s.setCtlInit b
  abort : ∀ e s, (f s).abort e = f (s.abort e) ∨ (f s).abort e = s.abort e
  accepted : ∀ i s, (f s).accepted i = f (s.accepted i) ∨ (f s).accepted i = s.accepted i
  refusedDelay : ∀ i s, (f s).refusedDelay i = f (s.refusedDelay i) ∨ (f s).refusedDelay i = s.refusedDelay i

/-- An operation carries the change f along, or undoes it. -/
def Carried (f : State → State) (op : State → Outcome) (s : State) : Prop :=
  op (f s) = mapNext f (op s) ∨ op (f s) = op s

/-- No staging in the work reads a latch C that f has changed (R128). -/
def StagesBlind (f : State → State) (ops : List MicroOp) : Prop := (∀ s, (f s).c = s.c) ∨ .stagePixel ∉ ops

theorem StagesBlind.of_subset {f : State → State} {ops ops' : List MicroOp} (h : StagesBlind f ops)
    (hsub : .stagePixel ∈ ops' → .stagePixel ∈ ops) : StagesBlind f ops' := h.imp_right (mt hsub)

section
variable {f : State → State} (hf : Unseen f)
include hf

theorem Unseen.stageWord (c : Word) (s : State) : (f s).stageWord c = (s.stageWord c).map f := by
  by_cases hroom : s.fill < s.cfg.chunk <;> simp [State.stageWord, hf.fill, hf.cfg, hf.staged, hroom]

theorem Unseen.settle_carried {ops : List MicroOp} (hblind : StagesBlind f ops) (s : State) :
    Carried f (settle ops) s := by
  induction ops generalizing s with
  | nil => exact .inl (congrArg _ (hf.complete s))
  | cons m r ih =>
    replace ih := ih (hblind.of_subset (List.mem_cons_of_mem m))
    unfold Carried at ih ⊢
    cases m with
    | prim | pull | cmd => exact .inl (congrArg Host.Outcome.next (hf.withTodo _ s))
    | clearFill =>
      simp only [settle, hf.clearFill]
      exact ih s.clearFill
    | markInit =>
      simp only [settle]
      rcases hf.setCtlInit true s with heq | heq
      · rw [heq]; exact ih _
      · exact .inr (congrArg _ heq)
    | stagePixel =>
      have hc : (f s).c = s.c := (hblind.resolve_right (by simp)) s
      simp only [settle, hf.clearFill, hc, hf.stageWord]
      cases s.clearFill.stageWord s.c with
      | none => exact .inl rfl
      | some u => exact ih u
    | flush =>
      simp only [settle, hf.fill, hf.stagedBytes, hf.cfg, hf.withTodo]
      split
      · exact ih s
      · cases s.stagedBytes with
        | none => exact .inl rfl
        | some bytes => exact .inl rfl

theorem Unseen.runPrim_carried {s : State} (hblind : StagesBlind f s.todo) (p : Prim) : Carried f (runPrim p) s := by
  have hsettle : settle (f s).todo ((f s).performed p .ok) = mapNext f (settle s.todo (s.performed p .ok)) ∨
      settle (f s).todo ((f s).performed p .ok) = settle s.todo (s.performed p .ok) := by
    rw [hf.todo, hf.performed]
    exact hf.settle_carried hblind _
  unfold Carried runPrim
  rw [hf.nextAnswer]
  cases p.error with
  | none => exact hsettle
  | some e =>
    cases s.nextAnswer with
    | ok => exact hsettle
    | fail =>
      dsimp only
      rw [hf.performed]
      exact (hf.abort e _).imp (congrArg _) (congrArg _)

theorem Unseen.runFrame_carried {s : State} (hblind : StagesBlind f s.todo) (ps : List Prim) :
    Carried f (runFrame ps) s := by
  cases ps with
  | nil =>
    unfold Carried runFrame
    rw [hf.todo]
    exact hf.settle_carried hblind s
  | cons p rest =>
    unfold Carried runFrame
    dsimp only
    rw [hf.todo, hf.withTodo]
    exact hf.runPrim_carried (hblind.of_subset (by simp)) p

theorem Unseen.runPull_carried {s : State} (hblind : StagesBlind f s.todo) : Carried f runPull s := by
  unfold Carried runPull
  rw [hf.stream, hf.todo]
  cases s.stream.pull with
  | none => exact .inl (congrArg _ (hf.withTodo _ s))
  | some answer =>
    obtain ⟨t, st⟩ := answer
    dsimp only
    rw [hf.pulled]
    cases tokenItem t with
    | endOfStream => exact hf.settle_carried (hblind.of_subset (by simp)) _
    | word c =>
      dsimp only
      rw [hf.stageWord]
      cases (s.pulled st).stageWord c with
      | none => exact .inl rfl
      | some u =>
        simp only [Option.map_some, hf.fill, hf.cfg, hf.withTodo]
        split
        · exact hf.settle_carried (hblind.of_subset (by simp)) u
        · exact .inl rfl

theorem Unseen.busyStep_carried {s : State} (hbusy : s.phase = .busy) (hblind : StagesBlind f s.todo) :
    Carried f busyStep s := by
  have hsettle : ∀ ops, s.todo = ops → Carried f (settle ops) s := fun ops hops =>
    hf.settle_carried (hops ▸ hblind) s
  unfold Carried busyStep
  rw [hf.todo]
  cases htodo : s.todo with
  | nil => exact .inl (congrArg _ (hf.complete s))
  | cons m rest =>
    have hrest : StagesBlind f (s.withTodo rest).todo := hblind.of_subset (by simp +contextual [htodo])
    cases m with
    | prim p =>
      dsimp only
      rw [hf.withTodo]
      exact hf.runPrim_carried hrest p
    | pull =>
      dsimp only
      rw [hf.withTodo]
      exact hf.runPull_carried hrest
    | cmd i =>
      dsimp only
      rw [hf.withTodo]
      cases hport : i.port with
      | bus =>
        rw [exec_bus hport, exec_bus hport, hf.cfg]
        exact hf.runFrame_carried hrest _
      | request =>
        rw [exec_busy (s := f (s.withTodo rest)) hport ((hf.phase _).trans hbusy),
          exec_busy (s := s.withTodo rest) hport hbusy]
        exact .inl rfl
    | clearFill => exact hsettle _ htodo
    | stagePixel => exact hsettle _ htodo
    | flush => exact hsettle _ htodo
    | markInit => exact hsettle _ htodo

theorem Unseen.exec_carried {i : Instr} {s : State} (hi : i.port = .request) (hidle : s.phase = .idle) :
    Carried f (exec i) s := by
  have hidle' : (f s).phase = .idle := (hf.phase s).trans hidle
  unfold Carried
  by_cases hdelay : needsDelay i = true → s.cfg.hasDelay = true
  case pos =>
    rw [exec_accepted hi hidle hdelay, exec_accepted hi hidle' (by rwa [hf.cfg])]
    exact (hf.accepted i s).imp (congrArg _) (congrArg _)
  case neg =>
    obtain ⟨hneeds, hnone⟩ := Classical.not_imp.mp hdelay
    have hnone' : s.cfg.hasDelay = false := by simpa using hnone
    rw [exec_refusedDelay hneeds hidle hnone', exec_refusedDelay hneeds hidle' (by rwa [hf.cfg])]
    exact (hf.refusedDelay i s).imp (congrArg _) (congrArg _)

theorem Unseen.idleStep_carried {s : State} (hidle : s.phase = .idle) : Carried f idleStep s := by
  unfold Carried idleStep
  rw [hf.hostOps]
  rcases s.hostOps with _ | ⟨⟨desc, stream⟩ | _, rest⟩
  · exact .inl rfl
  · cases hdecode : decodeDesc desc with
    | error e =>
      simp only [hdecode]
      rw [hf.stream, hf.withHost, hf.refuse]
      exact .inl rfl
    | ok i =>
      simp only [hdecode]
      rw [hf.withHost]
      exact hf.exec_carried (s := s.withHost rest stream) (encodeDesc_of_decodeDesc hdecode).2 hidle
  · dsimp only
    rw [hf.stream, hf.withHost, hf.readResult]
    exact .inl rfl

/-- A step carries the change along, or undoes it. -/
theorem Unseen.step_carried {s : State} (hblind : s.phase = .busy → StagesBlind f s.todo) : Carried f step s := by
  unfold Carried step blockStep
  rw [hf.phase]
  cases hphase : s.phase with
  | idle => exact hf.idleStep_carried hphase
  | busy => exact hf.busyStep_carried hphase (hblind hphase)

end

/-! ### CTL_INIT -/

theorem unseen_setCtlInit (v : Bool) : Unseen (State.setCtlInit v) where
  cfg _ := rfl
  phase _ := rfl
  todo _ := rfl
  hostOps _ := rfl
  stream _ := rfl
  fill _ := rfl
  stagedBytes _ := rfl
  nextAnswer _ := rfl
  withTodo _ _ := rfl
  clearFill _ := rfl
  staged _ _ := rfl
  pulled _ _ := rfl
  withHost _ _ _ := rfl
  performed _ _ _ := rfl
  complete _ := rfl
  refuse _ _ := rfl
  readResult s := by cases h : s.result <;> simp [State.readResult, State.setCtlInit, h, State.refuse]
  setCtlInit _ _ := .inr rfl
  abort _ _ := .inr rfl
  accepted i s := by
    unfold State.accepted
    cases needsDelay i with
    | true => exact .inr rfl
    | false => exact .inl rfl
  refusedDelay _ _ := .inl rfl

/-- Settles O47: a step carries another value of CTL_INIT along, or writes its own. -/
theorem ctlInitIsNotRead : Obligations.CtlInitIsNotRead := by
  intro s t v hstep
  have hblind : StagesBlind (State.setCtlInit v) s.todo := .inl fun _ => rfl
  rcases (unseen_setCtlInit v).step_carried fun _ => hblind with hcarried | hundone
  · exact ⟨v, hcarried.trans (by rw [hstep]; rfl)⟩
  · exact ⟨t.ctlInit, hundone.trans hstep⟩

/-! ### Operand latches -/

/-- The operand latches A to D are changed, each by a function of its own. -/
def State.mapLatches (ka kb kc kd : Word → Word) (s : State) : State :=
  { s with a := ka s.a, b := kb s.b, c := kc s.c, d := kd s.d }

section
variable (ka kb kc kd : Word → Word)

theorem unseen_mapLatches : Unseen (State.mapLatches ka kb kc kd) where
  cfg _ := rfl
  phase _ := rfl
  todo _ := rfl
  hostOps _ := rfl
  stream _ := rfl
  fill _ := rfl
  stagedBytes _ := rfl
  nextAnswer _ := rfl
  withTodo _ _ := rfl
  clearFill _ := rfl
  staged _ _ := rfl
  pulled _ _ := rfl
  withHost _ _ _ := rfl
  performed _ _ _ := rfl
  complete _ := rfl
  refuse _ _ := rfl
  readResult s := by cases h : s.result <;> simp [State.readResult, State.mapLatches, h, State.refuse]
  setCtlInit _ _ := .inl rfl
  abort _ _ := .inl rfl
  accepted _ _ := .inr rfl
  refusedDelay _ _ := .inr rfl

end

/-- A staging that is left to do stood in the work before. -/
theorem stagePixel_mem_of_settle {ops : List MicroOp} {s t : State} (h : settle ops s = .next t)
    (hmem : .stagePixel ∈ t.todo) : .stagePixel ∈ ops := by
  induction ops generalizing s with
  | nil => cases h; simp at hmem
  | cons m r ih =>
    cases m with
    | prim | pull | cmd => cases h; exact hmem
    | clearFill => exact List.mem_cons_of_mem _ (ih h)
    | markInit => exact List.mem_cons_of_mem _ (ih h)
    | stagePixel => exact List.mem_cons_self
    | flush =>
      simp only [settle] at h
      split at h
      · exact List.mem_cons_of_mem _ (ih h)
      · split at h
        · cases h
          exact List.mem_cons_of_mem _ (by simpa using hmem)
        · cases h

theorem BusyStep.stagePixel_mem {s t : State} (h : BusyStep s.todo s t) (hmem : .stagePixel ∈ t.todo) :
    .stagePixel ∈ s.todo := by
  cases h with
  | aborts p e _ _ habort => subst habort; simp at hmem
  | goesOn x ops _ hfrom _ hsettle => exact hfrom.mem (by simp) (by simp) (stagePixel_mem_of_settle hsettle hmem)
  | drops i ops _ htodo hdrop => subst hdrop; simpa [htodo] using hmem

/-- No staging that a busy block has left to do reads a latch C that f has changed. -/
def LatchBlind (f : State → State) (s : State) : Prop := s.phase = .busy → StagesBlind f s.todo

section
variable {ka kb kc kd : Word → Word}

/-- A step carries changed latches along and still reads none, or takes a request, whose fields overwrite them. -/
theorem step_mapLatches {s t : State} (hblind : LatchBlind (State.mapLatches ka kb kc kd) s) (hstep : step s = .next t) :
    (step (s.mapLatches ka kb kc kd) = .next (t.mapLatches ka kb kc kd) ∧
      LatchBlind (State.mapLatches ka kb kc kd) t) ∨ step (s.mapLatches ka kb kc kd) = .next t := by
  have hcarried := (unseen_mapLatches ka kb kc kd).step_carried hblind
  unfold Carried at hcarried
  rw [hstep] at hcarried
  cases hphase : s.phase with
  | busy =>
    have hmem := (busyStep_of_step hphase hstep).stagePixel_mem
    exact hcarried.imp_left fun h => ⟨h, fun _ => (hblind hphase).of_subset hmem⟩
  | idle =>
    cases idleStep_of_step hphase hstep with
    | waits => exact hcarried.imp_left fun h => ⟨h, hblind⟩
    | reads rest r _ _ => exact hcarried.imp_left fun h => ⟨h, fun hbusy => by simp [hphase] at hbusy⟩
    | refuses op rest r _ => exact hcarried.imp_left fun h => ⟨h, fun hbusy => by simp [hphase] at hbusy⟩
    | refusesDelay i stream rest _ => exact hcarried.imp_left fun h => ⟨h, fun hbusy => by cases hbusy⟩
    | accepts i stream rest hi hops hdelay =>
      have htaken := step_of_presented (s := s.mapLatches ka kb kc kd) (decodeDesc_encodeDesc hi) hphase hops
      exact .inr (htaken.trans (exec_accepted hi hphase hdelay))

/-- A run carries changed latches along, or a request it accepts overwrites them. -/
theorem run_mapLatches {n : Nat} {s u : State} (hblind : LatchBlind (State.mapLatches ka kb kc kd) s)
    (hrun : run n s = .next u) :
    run n (s.mapLatches ka kb kc kd) = .next (u.mapLatches ka kb kc kd) ∨
      run n (s.mapLatches ka kb kc kd) = .next u := by
  induction n generalizing s with
  | zero => cases hrun; exact .inl rfl
  | succ n ih =>
    obtain ⟨t, hstep, hrest⟩ := run_succ_next hrun
    rcases step_mapLatches hblind hstep with ⟨hcarried, hblind'⟩ | hundone
    · rw [run_succ hcarried]
      exact ih hblind' hrest
    · exact .inr ((run_succ hundone n).trans hrest)

theorem accepted_of_encodeDesc {i : Instr} {q : Byte} {a b c d : Word} (h : encodeDesc i = descOf q a b c d)
    (s : State) : s.accepted i =
      ((s.latch q a b c d).setCtlInit (!needsDelay i && s.ctlInit)).withTodo (requestWork i) := by
  rw [State.accepted, h, State.latchDesc_descOf]

theorem refusedDelay_of_encodeDesc {i : Instr} {q : Byte} {a b c d : Word} (h : encodeDesc i = descOf q a b c d)
    (s : State) : s.refusedDelay i = { (s.latch q a b c d).refuse .noDelayProvider with phase := .idle } := by
  rw [State.refusedDelay, h, State.latchDesc_descOf]

/-- Two requests of one code with the same work, presented to one idle block, are taken alike up to their latches. -/
theorem presented_alike {q : Byte} {a b c d : Word} {i i' : Instr} (hdecode : decodeReq q a b c d = .ok i)
    (hdecode' : decodeReq q (ka a) (kb b) (kc c) (kd d) = .ok i') (hwork : requestWork i' = requestWork i)
    (hneeds : needsDelay i' = needsDelay i) (hblind : StagesBlind (State.mapLatches ka kb kc kd) (requestWork i))
    {s : State} (hidle : s.phase = .idle) (stream : TokenStream) (rest : List HostOp) :
    ∃ t, step { s with hostOps := .request (descOf q a b c d) stream :: rest } = .next t ∧
      step { s with hostOps := .request (descOf q (ka a) (kb b) (kc c) (kd d)) stream :: rest } =
        .next (t.mapLatches ka kb kc kd) ∧ LatchBlind (State.mapLatches ka kb kc kd) t := by
  obtain ⟨hdesc, hi⟩ := encodeDesc_of_decodeReq hdecode
  obtain ⟨hdesc', hi'⟩ := encodeDesc_of_decodeReq hdecode'
  have hstep := step_of_presented (s := { s with hostOps := .request (descOf q a b c d) stream :: rest })
    ((decodeDesc_descOf ..).trans hdecode) hidle rfl
  have hstep' := step_of_presented
    (s := { s with hostOps := .request (descOf q (ka a) (kb b) (kc c) (kd d)) stream :: rest })
    ((decodeDesc_descOf ..).trans hdecode') hidle rfl
  set s₀ := s.withHost rest stream
  by_cases hdelay : needsDelay i = true → s₀.cfg.hasDelay = true
  case pos =>
    refine ⟨s₀.accepted i, hstep.trans (exec_accepted hi hidle hdelay), ?_, fun _ => hblind⟩
    refine hstep'.trans ((exec_accepted (s := s₀) hi' hidle (hneeds ▸ hdelay)).trans (congrArg _ ?_))
    rw [accepted_of_encodeDesc hdesc, accepted_of_encodeDesc hdesc', hwork, hneeds]
    rfl
  case neg =>
    obtain ⟨hneeds₀, hnone⟩ := Classical.not_imp.mp hdelay
    have hnone' : s₀.cfg.hasDelay = false := by simpa using hnone
    refine ⟨s₀.refusedDelay i, hstep.trans (exec_refusedDelay hneeds₀ hidle hnone'), ?_, fun hbusy => by cases hbusy⟩
    refine hstep'.trans ((exec_refusedDelay (s := s₀) (hneeds ▸ hneeds₀) hidle hnone').trans (congrArg _ ?_))
    rw [refusedDelay_of_encodeDesc hdesc, refusedDelay_of_encodeDesc hdesc']
    rfl

end

/-- The work of INIT, HARD_RESET and SET_ORIENTATION depends on no operand field (R75). -/
theorem decodeReq_of_noOperands {q : Byte} (hq : q ∈ ([0x01, 0x02, 0x03, 0x13, 0x23, 0x33] : List Byte)) :
    ∃ work needs, .stagePixel ∉ work ∧ ∀ a b c d, ∃ i, decodeReq q a b c d = .ok i ∧ requestWork i = work ∧
      needsDelay i = needs := by
  simp only [List.mem_cons, List.not_mem_nil, or_false] at hq
  rcases hq with rfl | rfl | rfl | rfl | rfl | rfl
  · exact ⟨initWork, true, by decide, fun a b c d => ⟨.init a b c d, rfl, rfl, rfl⟩⟩
  · exact ⟨hardResetSeq, true, by decide, fun a b c d => ⟨.hardReset a b c d, rfl, rfl, rfl⟩⟩
  · exact ⟨_, false, by decide, fun a b c d => ⟨.setOrientation .portrait a b c d, rfl, rfl, rfl⟩⟩
  · exact ⟨_, false, by decide, fun a b c d => ⟨.setOrientation .landscape a b c d, rfl, rfl, rfl⟩⟩
  · exact ⟨_, false, by decide, fun a b c d => ⟨.setOrientation .portraitSwapped a b c d, rfl, rfl, rfl⟩⟩
  · exact ⟨_, false, by decide, fun a b c d => ⟨.setOrientation .landscapeSwapped a b c d, rfl, rfl, rfl⟩⟩

/-- Settles O48: the two descriptors are taken alike up to the latches of unused fields, and no later step reads those. -/
theorem unusedOperandFieldsAreIgnored : Obligations.UnusedOperandFieldsAreIgnored := by
  intro s stream rest desc x y z w hidle presented
  refine ⟨fun hreq => ?all, fun hreq => ?last⟩
  case all =>
    obtain ⟨work, needs, hstage, hdecode⟩ := decodeReq_of_noOperands hreq
    obtain ⟨i, hi, hwork, hneeds⟩ := hdecode (descA desc) (descB desc) (descC desc) (descD desc)
    obtain ⟨i', hi', hwork', hneeds'⟩ := hdecode x y z w
    obtain ⟨t, hstep, hstep', hblind⟩ := presented_alike (ka := fun _ => x) (kb := fun _ => y) (kc := fun _ => z)
      (kd := fun _ => w) hi hi' (hwork'.trans hwork.symm) (hneeds'.trans hneeds.symm) (.inr (hwork ▸ hstage)) hidle stream
      rest
    rw [descOf_fields] at hstep
    refine ⟨fun t' ht' => ?_, fun n u hrun => ?_⟩
    · cases hstep.symm.trans ht'
      exact hstep'
    · rw [run_succ hstep] at hrun
      rcases run_mapLatches hblind hrun with hcarried | hundone
      · exact ⟨x, y, z, w, (run_succ hstep' n).trans hcarried⟩
      · exact ⟨u.a, u.b, u.c, u.d, (run_succ hstep' n).trans hundone⟩
  case last =>
    obtain ⟨t, hstep, hstep', hblind⟩ := presented_alike (q := 0x04) (a := descA desc) (b := descB desc)
      (c := descC desc) (d := descD desc) (ka := id) (kb := id) (kc := id) (kd := fun _ => w) rfl rfl rfl rfl
      (.inl fun _ => rfl) hidle stream rest
    rw [← hreq, descOf_fields] at hstep
    refine ⟨fun t' ht' => ?_, fun n u hrun => ?_⟩
    · cases hstep.symm.trans ht'
      exact hstep'
    · rw [run_succ hstep] at hrun
      rcases run_mapLatches hblind hrun with hcarried | hundone
      · exact ⟨w, (run_succ hstep' n).trans hcarried⟩
      · exact ⟨u.d, (run_succ hstep' n).trans hundone⟩

end Sys2Proof.Machine
end
